-- ==== Sys2Proof/Word.lean ====
section
/-! DEFINITION. The bit-vector types of PTC.

Only what the spec treats as bits is a bit vector: the bytes on the wire, the four-bit glyph indices, the twelve-bit
micro-operation word and the serial engine's scratch registers. Counters whose width is a parameter of the
configuration (`W_TICK`, `W_SEC`, `W_CYC`, 00_scope.md R9) are natural numbers, and the one place that adds to or
subtracts from one of them takes the result modulo its width (`Machine.addMod`, `Machine.subMod`). -/

namespace Sys2Proof

/-- A byte on the wire: a command, an address or a glyph (20_memory.md R65, R103). -/
abbrev Byte := BitVec 8

/-- A digit value, which is also a glyph index (10_state.md R26, 30_encoding.md R99). -/
abbrev Digit := BitVec 4

/-- The micro-operation word `CW[11:0]` (30_encoding.md R110). -/
abbrev MicroWord := BitVec 12

end Sys2Proof
end

