-- ==== Sys2Proof/Syntax.lean ====
section
/-! DEFINITION. The fifteen operations of PTC, one constructor per row of spec/opcode_table.json (30_encoding.md R112).

A constructor holds the operands that stand in the micro-operation word. The wide operands of `TODIGITS` and `WRFRAME`
travel beside the word on the operand buses (R113), which `Machine.State` carries. -/

namespace Sys2Proof

/-- The debounce instance and the button it filters (42_debounce.md): `u = 0` control, `u = 1` function (R117). -/
inductive Button where
  | ctrl
  | func
deriving DecidableEq, Repr

/-- An operation of PTC, the counterpart of an instruction (00_scope.md R16). -/
inductive Instr where
  /-- `START`, 41_serial_engine.md R142 -/
  | start
  /-- `STOP`, R143 -/
  | stop
  /-- `WRBYTE b`, R144 -/
  | wrbyte (b : Byte)
  /-- `WAITACK`, R145 -/
  | waitack
  /-- `WRDATACMD b`, R148 -/
  | wrdatacmd (b : Byte)
  /-- `WRDISPCMD b`, R149 -/
  | wrdispcmd (b : Byte)
  /-- `WRFRAME`, R150: blink flag `k` = `CW[3]`, digit count `n` = `CW[2:0]` -/
  | wrframe (k : Bool) (n : BitVec 3)
  /-- `TODIGITS`, 40_digit_encoder.md R131 -/
  | todigits
  /-- `DBPOLL u`, 42_debounce.md R171 -/
  | dbpoll (u : Button)
  /-- `CTRLEDGE`, 43_session.md R190 -/
  | ctrledge
  /-- `FUNCEDGE`, R191 -/
  | funcedge
  /-- `AUTOROLL`, R192 -/
  | autoroll
  /-- `REFRESH`, 44_refresh_scheduler.md R217 -/
  | refresh
  /-- `CUE p`, 43_session.md R194: pulse count `p` = `CW[1:0]` -/
  | cue (p : BitVec 2)
  /-- `ITER`, 44_refresh_scheduler.md R221 -/
  | iter
deriving DecidableEq, Repr

end Sys2Proof
end

