-- ==== Sys2Proof/WellFormed.lean ====
section
/-! DEFINITION. Which terms of `Instr` are operations of the spec: the operand ranges the micro-operation word cannot
rule out by its field widths (30_encoding.md R104(b), R114(c) and (e)). -/

namespace Sys2Proof

/-- The operand checks of 30_encoding.md R114: a frame has 4, 5 or 6 digits, a cue 1, 2 or 3 pulses; every other
operand is legal at every value of its field (R104(d)). -/
def Instr.wellFormed : Instr → Bool
  | .wrframe _ n => decide (4 ≤ n.toNat ∧ n.toNat ≤ 6)
  | .cue p => decide (p ≠ 0#2)
  | .start | .stop | .wrbyte _ | .waitack | .wrdatacmd _ | .wrdispcmd _ | .todigits | .dbpoll _
  | .ctrledge | .funcedge | .autoroll | .refresh | .iter => true

end Sys2Proof
end

