-- ==== Sys2Proof/Decode.lean ====
section
/-! DEFINITION. The decoder and the encoder of the twelve-bit micro-operation word (30_encoding.md R110 to R114).

`decode` is total: a reserved word is rejected by the name the spec gives its refusal, and none falls through to a
neighbour ("None executes as a no-operation and none is a hint", R114). -/

namespace Sys2Proof

/-- Why a word is no operation (30_encoding.md R114, R104(b)). -/
inductive DecodeError where
  /-- `Refuse(IllegalWord)`: R114 (a), (b), (d), (e), and (c) with `CW[7:4] ≠ 0`. -/
  | illegalWord
  /-- `Refuse(FrameLength)`: format F with `CW[7:4] = 0` and a digit count outside 4 to 6. -/
  | frameLength
deriving DecidableEq, Repr

/-- `CW[11:8]`, the operation identifier `OP` (R110). -/
def opField (w : MicroWord) : BitVec 4 := w.extractLsb' 8 4

/-- `CW[7:0]`, the small operands (R110). -/
def lowField (w : MicroWord) : BitVec 8 := w.extractLsb' 0 8

/-- Format Z: the low byte must be zero (R111). -/
def decodeZ (i : Instr) (low : BitVec 8) : Except DecodeError Instr :=
  if low = 0#8 then .ok i else .error .illegalWord

/-- Format F: `0000knnn`, the upper four bits zero (R111), the digit count in 4 to 6 (R114(c)). -/
def decodeF (low : BitVec 8) : Except DecodeError Instr :=
  if low.extractLsb' 4 4 ≠ 0#4 then .error .illegalWord
  else if 4 ≤ (low.extractLsb' 0 3).toNat ∧ (low.extractLsb' 0 3).toNat ≤ 6 then
    .ok (.wrframe (low.getLsbD 3) (low.extractLsb' 0 3))
  else .error .frameLength

/-- Format U: `0000000u` (R111). -/
def decodeU (low : BitVec 8) : Except DecodeError Instr :=
  if low.extractLsb' 1 7 ≠ 0#7 then .error .illegalWord
  else .ok (.dbpoll (if low.getLsbD 0 then .func else .ctrl))

/-- Format C: `000000pp`, with `p ≠ 0` (R111, R114(e)). -/
def decodeC (low : BitVec 8) : Except DecodeError Instr :=
  if low.extractLsb' 2 6 ≠ 0#6 then .error .illegalWord
  else if low.extractLsb' 0 2 = 0#2 then .error .illegalWord
  else .ok (.cue (low.extractLsb' 0 2))

/-- The operation map of 30_encoding.md R112. -/
def decode (w : MicroWord) : Except DecodeError Instr :=
  match (opField w).toNat with
  | 0x0 => decodeZ .start (lowField w)
  | 0x1 => decodeZ .stop (lowField w)
  | 0x2 => .ok (.wrbyte (lowField w))
  | 0x3 => decodeZ .waitack (lowField w)
  | 0x4 => .ok (.wrdatacmd (lowField w))
  | 0x5 => .ok (.wrdispcmd (lowField w))
  | 0x6 => decodeF (lowField w)
  | 0x7 => decodeZ .todigits (lowField w)
  | 0x8 => decodeU (lowField w)
  | 0x9 => decodeZ .ctrledge (lowField w)
  | 0xA => decodeZ .funcedge (lowField w)
  | 0xB => decodeZ .autoroll (lowField w)
  | 0xC => decodeZ .refresh (lowField w)
  | 0xD => decodeC (lowField w)
  | 0xE => decodeZ .iter (lowField w)
  | _ => .error .illegalWord

/-- A word from its operation identifier and its low byte (R110). -/
def microWord (op : BitVec 4) (low : BitVec 8) : MicroWord := op ++ low

/-- The word of an operation, from the formats of 30_encoding.md R111 and the map of R112. -/
def encode : Instr → MicroWord
  | .start => microWord 0x0 0
  | .stop => microWord 0x1 0
  | .wrbyte b => microWord 0x2 b
  | .waitack => microWord 0x3 0
  | .wrdatacmd b => microWord 0x4 b
  | .wrdispcmd b => microWord 0x5 b
  | .wrframe k n => microWord 0x6 (0#4 ++ BitVec.ofBool k ++ n)
  | .todigits => microWord 0x7 0
  | .dbpoll u => microWord 0x8 (0#7 ++ BitVec.ofBool (u == .func))
  | .ctrledge => microWord 0x9 0
  | .funcedge => microWord 0xA 0
  | .autoroll => microWord 0xB 0
  | .refresh => microWord 0xC 0
  | .cue p => microWord 0xD (0#6 ++ p)
  | .iter => microWord 0xE 0

/-- The operation whose word's bits are `w`, numbered as spec/opcode_table.json numbers them. A word has one length,
twelve bits (R110), so `nbits` (12, or 16 in whole bytes) adds nothing, and a number that does not fit twelve bits is
no word. -/
def decodeTableWord (_nbits w : Nat) : Option Instr :=
  if w < 2 ^ 12 then (decode (BitVec.ofNat 12 w)).toOption else none

end Sys2Proof
end

