-- ==== Sys2Proof/Config.lean ====
section
/-! DEFINITION. The configuration record of PTC: every parameter of 00_scope.md R8 (values PT gives) and R9 (values PT
leaves open). "A model takes the parameters as a configuration record" (R8): the record is carried unchanged in
`State`, so that a statement over every state is a statement over every configuration (assumption log 1). -/

namespace Sys2Proof

/-- Where the cycle counter is incremented (43_session.md R186 and R189, 90_conflicts.md C2). -/
inductive CycVariant where
  /-- R186, the default: +1 when Focus is left. -/
  | atFocusExit
  /-- R189, the other reading of PT: +1 when ShortBreak is left. -/
  | atShortExit
deriving DecidableEq, Repr

/-- The twelve entries of the glyph table (10_state.md R37; `N_GLYPH = 12` by 00_scope.md R10). -/
abbrev GlyphTable := Vector Byte 12

/-- The parameters of 00_scope.md R8 and R9. Durations are in seconds, waits in the unit the field's name ends with. -/
structure Config where
  /-- `T_FOCUS` -/
  tFocus : Nat
  /-- `T_SHORT` -/
  tShort : Nat
  /-- `T_LONG` -/
  tLong : Nat
  /-- `CYC_LIMIT` -/
  cycLimit : Nat
  /-- `DB_THRESHOLD`, in ticks -/
  dbThreshold : Nat
  /-- `N_BUF`, the digits a refresh sends -/
  nBuf : Nat
  /-- `N_MIN` -/
  nMin : Nat
  /-- `N_MAX` -/
  nMax : Nat
  /-- `T_START` -/
  tStartUs : Nat
  /-- `T_BIT_LO` -/
  tBitLoUs : Nat
  /-- `T_BIT_HI` -/
  tBitHiUs : Nat
  /-- `T_ACK_LO` -/
  tAckLoUs : Nat
  /-- `T_ACK_HI` -/
  tAckHiUs : Nat
  /-- `T_BUZ_ON` -/
  tBuzOnMs : Nat
  /-- `T_BUZ_OFF` -/
  tBuzOffMs : Nat
  /-- `TICK_PERIOD`: recorded; the model is untimed and no rule reads it (70_reset_and_hazards.md R296) -/
  tickPeriodMs : Nat
  /-- `SEC_PERIOD`: recorded; no rule reads it -/
  secPeriodS : Nat
  /-- `W_TICK` -/
  wTick : Nat
  /-- `W_SEC` -/
  wSec : Nat
  /-- `W_CYC` -/
  wCyc : Nat
  /-- `T_STOP` -/
  tStopUs : Nat
  /-- `GLYPH[0..11]` -/
  glyph : GlyphTable
  /-- `CMD_DATA` -/
  cmdData : Byte
  /-- `CMD_ADDR` -/
  cmdAddr : Byte
  /-- `CMD_DISP` -/
  cmdDisp : Byte
  /-- `SEC_TICK_GATED` -/
  secTickGated : Bool
  /-- `CYC_VARIANT` -/
  cycVariant : CycVariant
  /-- `ACTIVE`: the pressed level of a button input, `false` is the pin low -/
  active : Bool
deriving DecidableEq, Repr

/-- The default glyph bytes of 30_encoding.md R100, which the spec marks as general knowledge (D17). -/
def Config.standardGlyphs : GlyphTable :=
  #v[0x3F#8, 0x06#8, 0x5B#8, 0x4F#8, 0x66#8, 0x6D#8, 0x7D#8, 0x07#8, 0x7F#8, 0x6F#8, 0x40#8, 0x80#8]

/-- Every parameter at the default of 00_scope.md R8 and R9. -/
def Config.standard : Config where
  tFocus := 1500
  tShort := 300
  tLong := 900
  cycLimit := 5
  dbThreshold := 20
  nBuf := 4
  nMin := 4
  nMax := 6
  tStartUs := 2
  tBitLoUs := 3
  tBitHiUs := 3
  tAckLoUs := 5
  tAckHiUs := 2
  tBuzOnMs := 50
  tBuzOffMs := 50
  tickPeriodMs := 1
  secPeriodS := 1
  wTick := 32
  wSec := 32
  wCyc := 8
  tStopUs := 2
  glyph := Config.standardGlyphs
  cmdData := 0x40
  cmdAddr := 0xC0
  cmdDisp := 0x8F
  secTickGated := true
  cycVariant := .atFocusExit
  active := false

/-- The constraints of 00_scope.md R10 under which the rules are meaningful (`N_GLYPH = 12` holds by the type). -/
structure Config.Valid (c : Config) : Prop where
  focus : 1 ≤ c.tFocus ∧ c.tFocus ≤ 5999 ∧ c.tFocus < 2 ^ c.wSec
  short : 1 ≤ c.tShort ∧ c.tShort ≤ 5999 ∧ c.tShort < 2 ^ c.wSec
  long : 1 ≤ c.tLong ∧ c.tLong ≤ 5999 ∧ c.tLong < 2 ^ c.wSec
  limit : 1 ≤ c.cycLimit ∧ c.cycLimit ≤ 2 ^ c.wCyc - 1
  threshold : c.dbThreshold < 2 ^ c.wTick - 1
  frame : c.nMin ≤ c.nBuf ∧ c.nBuf ≤ c.nMax

end Sys2Proof
end

