-- ==== Sys2Proof/Machine/State.lean ====
section
/-! DEFINITION. The state of PTC as plain data: every register and port of 10_state.md R20, the environment-owned
counters and inputs PTC reads (R33 to R36), the configuration record (00_scope.md R8), and the model's own fields,
which stand for what drives PTC from outside (the environment's moves, the words a harness issues, the operand buses,
the framing checker) and for what is observed of it (the output trace). -/

namespace Sys2Proof.Machine

open Sys2Proof

/-- The session mode (10_state.md R22; "A model should use a three-constructor enumeration"). -/
inductive Mode where
  | focus
  | shortBreak
  | longBreak
deriving DecidableEq, Repr

/-- The sequencer phase `PH` (10_state.md R30): the operation the sequencer executes next. -/
inductive Phase where
  /-- 0: `DBPOLL 0` -/
  | ctrlPoll
  /-- 1: `DBPOLL 1` -/
  | funcPoll
  /-- 2: `REFRESH` -/
  | refresh
deriving DecidableEq, Repr

/-- The halt cause `HCAUSE` (60_exceptions.md R241). -/
inductive HaltCause where
  | noCause
  | timerStart
  | timerStop
  | digitRange
  | glyphRange
deriving DecidableEq, Repr

/-- The three registers of one debounce instance (10_state.md R21). Levels: `true` is the pin high. -/
structure Debounce where
  /-- `RAW[u]`, 1 bit -/
  raw : Bool
  /-- `STB[u]`, 1 bit -/
  stb : Bool
  /-- `CHG[u]`, `W_TICK` bits -/
  chg : Nat
deriving DecidableEq, Repr

/-- Four digit values, as `DIG[0..3]` and `Q_DIG[0..3]` hold them (10_state.md R26, 40_digit_encoder.md R131). -/
structure Digits where
  /-- tens of minutes -/
  d0 : Digit
  /-- units of minutes -/
  d1 : Digit
  /-- tens of seconds -/
  d2 : Digit
  /-- units of seconds -/
  d3 : Digit
deriving DecidableEq, Repr

/-- An output event (00_scope.md R13). A wait event records a lower bound on elapsed time and nothing else. -/
inductive Event where
  | clk (v : Bool)
  | dio (v : Bool)
  | buz (v : Bool)
  | secClr
  | tmrRun (v : Bool)
  | waitUs (n : Nat)
  | waitMs (n : Nat)
deriving DecidableEq, Repr

/-- One step of an agent outside PTC (00_scope.md R14, 20_memory.md R70). -/
inductive EnvMove where
  /-- `MSTICK` of the tick source (10_state.md R35). -/
  | msTick
  /-- `SECTICK` of the tick source (R36); it does nothing while it is not enabled. -/
  | secTick
  /-- The button environment sets the level of `BTN[u]` (R33). -/
  | btn (u : Button) (level : Bool)
  /-- The platform sets `TMR_FAIL` (R34). -/
  | tmrFail (level : Bool)
  /-- The platform raises `RST`, to arrive when `lines` further lines of the operations have run
  (70_reset_and_hazards.md R267: "between any two pseudocode lines"). -/
  | rst (lines : Nat)
deriving DecidableEq, Repr

/-- The framing checker's tracker (41_serial_engine.md R141): "the checker's state and not a PTC register". -/
inductive Tracker where
  /-- no transaction open (the tracker's reset state) -/
  | idle
  /-- started, no byte yet -/
  | open0
  /-- byte sent, acknowledge slot owed -/
  | sent
  /-- at least one byte and its slot done -/
  | open1
deriving DecidableEq, Repr

/-- The operand buses (30_encoding.md R113), as whoever issues an operation drives them. -/
structure OperandBus where
  /-- `A_SEC`, of which an operation reads the `W_SEC` low bits -/
  aSec : Nat
  /-- `F_DCMD[7:0]` -/
  fDcmd : Byte
  /-- `F_ADDR[7:0]` -/
  fAddr : Byte
  /-- `F_DIG[0..5]` -/
  fDig : Vector Digit 6
  /-- `F_DISP[7:0]` -/
  fDisp : Byte
deriving DecidableEq, Repr

/-- All operand lines at 0. -/
def OperandBus.zero : OperandBus := ⟨0, 0, 0, #v[0, 0, 0, 0, 0, 0], 0⟩

/-- A micro-operation word issued from outside the sequencer, with the bus values that go with it. -/
structure Issue where
  word : MicroWord
  bus : OperandBus
deriving DecidableEq, Repr

/-- The state of the machine. Registers and ports first (10_state.md R20, in the order of its table), then the ports
the environment owns, then the model's own fields. -/
structure State where
  /-- The configuration record (00_scope.md R8, R9): constant, written by nothing. -/
  cfg : Config
  /-- `RAW[0]`, `STB[0]`, `CHG[0]`: the control-button debounce instance (R21). -/
  dbCtrl : Debounce
  /-- `RAW[1]`, `STB[1]`, `CHG[1]`: the function-button debounce instance (R21). -/
  dbFunc : Debounce
  /-- `MODE` (R22) -/
  mode : Mode
  /-- `TGT`, `W_SEC` bits (R23) -/
  tgt : Nat
  /-- `CYC`, `W_CYC` bits (R24) -/
  cyc : Nat
  /-- `RUN` (R25) -/
  run : Bool
  /-- `DIG[0..3]` (R26) -/
  dig : Digits
  /-- `BLINK` (R27) -/
  blink : Bool
  /-- `LAST`, `W_SEC` bits (R28) -/
  last : Nat
  /-- `HALT` (R29) -/
  halt : Bool
  /-- `HCAUSE` (R29) -/
  hcause : HaltCause
  /-- `PH` (R30) -/
  ph : Phase
  /-- `SHR` (R31) -/
  shr : BitVec 8
  /-- `BITC` (R31) -/
  bitc : BitVec 4
  /-- `IDX` (R31) -/
  idx : BitVec 3
  /-- Output port `CLK` (R32) -/
  clk : Bool
  /-- Output port `DIO` (R32) -/
  dio : Bool
  /-- Output port `BUZ`, `true` is sounding (R32) -/
  buz : Bool
  /-- Output port `TMR_RUN` (R32) -/
  tmrRun : Bool
  /-- `TICK`, `W_TICK` bits, owned by the tick source (R35). -/
  tick : Nat
  /-- `SEC`, `W_SEC` bits, owned by the tick source and cleared by PTC (R36). -/
  sec : Nat
  /-- Input port `BTN[0]` (R33) -/
  btnCtrl : Bool
  /-- Input port `BTN[1]` (R33) -/
  btnFunc : Bool
  /-- Input port `TMR_FAIL` (R34) -/
  tmrFail : Bool
  /-- Input port `RST` (R34): `none` while low, `some k` when it is raised and arrives after `k` further lines. -/
  rst : Option Nat
  /-- MODEL'S OWN: what the agents outside PTC will do (20_memory.md R70, R71), one list of moves for each line that
  reads or writes environment state, in the order the lines come; past its end the environment does nothing. -/
  env : List (List EnvMove)
  /-- MODEL'S OWN: the words a harness has issued and PTC has not run yet; empty in the hardware by itself. -/
  issued : List Issue
  /-- MODEL'S OWN: the operand buses of R113 during the operation that is issued. -/
  bus : OperandBus
  /-- MODEL'S OWN: the result lines `Q_DIG[0..3]` as the last issued `TODIGITS` left them (R113). -/
  qDig : Digits
  /-- MODEL'S OWN: the framing checker of 41_serial_engine.md R141, `none` where no checker is attached. -/
  framing : Option Tracker
  /-- MODEL'S OWN: the output trace of the current run, oldest event first (00_scope.md R13). -/
  trace : List Event
  /-- MODEL'S OWN: the traces of the runs that resets have ended, oldest first (70_reset_and_hazards.md R267). -/
  pastRuns : List (List Event)
deriving DecidableEq, Repr

/-- Why a step stops with a fault. PTC has no such outcome: its one fatal outcome, the halt (60_exceptions.md R240,
R245), is an effect of the hardware that the spec describes, and the model takes it as a next state. The type has no
constructor, so that "no step of PTC stops with a fault" holds by the type (safe). -/
inductive Fault where
deriving DecidableEq, Repr

/-- Why a request is refused: "not behaviour of the hardware but the statement that this spec gives the request no
meaning" (60_exceptions.md R240, R248). A refusal changes no state and is safe: nothing is claimed of a run after it. -/
inductive Refusal where
  /-- An instruction without a meaning in this model. Raised by nothing: every arm of `exec` has its meaning. Safe. -/
  | notModelled (mnemonic : String)
  /-- `Refuse(IllegalWord)`: a reserved micro-operation word (30_encoding.md R114), raised by the fetch of an issued
  word and by `CUE` with `p = 0` (43_session.md R194). Safe. -/
  | illegalWord
  /-- `Refuse(FrameLength)`: a digit count outside the frame's range (30_encoding.md R104(b)), raised by the fetch of
  an issued word and by `WRFRAME`. Safe. -/
  | frameLength
  /-- `Refuse(Framing)`: an operation of the serial engine out of the grammar's order while a framing checker is
  attached (41_serial_engine.md R141), raised by the operations of the serial engine. Safe. -/
  | framing
deriving DecidableEq, Repr

/-- The state right after reset for a configuration (10_state.md R41, 70_reset_and_hazards.md R265). The values of the
ports PTC does not own (`TICK`, `BTN`, `TMR_FAIL`: "any value") and of the model's own fields are this model's choice
(assumption log 5). -/
def State.resetWith (c : Config) : State where
  cfg := c
  dbCtrl := ⟨!c.active, !c.active, 0⟩
  dbFunc := ⟨!c.active, !c.active, 0⟩
  mode := .focus
  tgt := c.tFocus
  cyc := 0
  run := false
  dig := ⟨0, 0, 0, 0⟩
  blink := false
  last := 0
  halt := false
  hcause := .noCause
  ph := .ctrlPoll
  shr := 0
  bitc := 0
  idx := 0
  clk := true
  dio := true
  buz := false
  tmrRun := false
  tick := 0
  sec := 0
  btnCtrl := !c.active
  btnFunc := !c.active
  tmrFail := false
  rst := none
  env := []
  issued := []
  bus := OperandBus.zero
  qDig := ⟨0, 0, 0, 0⟩
  framing := none
  trace := []
  pastRuns := []

/-- The machine right after reset with every parameter at its default. -/
def State.reset : State := State.resetWith Config.standard

end Sys2Proof.Machine
end

