-- ==== Sys2Proof/Machine/Ops.lean ====
section
/-! DEFINITION. The shared operations: running the lines of a pseudocode one after another, the environment's moves,
reading and writing ports and registers, taking a halt (60_exceptions.md R245) and the return from it, which only a
reset gives (R246, 70_reset_and_hazards.md R265). -/

namespace Sys2Proof.Machine

open Sys2Proof

/-! ### Running lines -/

/-- How a stretch of an operation ends. -/
inductive Flow where
  /-- every line ran; the next one goes on from here -/
  | ok (s : State)
  /-- a halt or a reset: the operation and every operation that called it end here, no further line runs
  (60_exceptions.md R245, 70_reset_and_hazards.md R267) -/
  | ended (s : State)
  /-- the request has no meaning (60_exceptions.md R248) -/
  | refused (r : Refusal)
deriving DecidableEq, Repr

/-- A stretch of pseudocode: what it does from a state. -/
abbrev Op := State → Flow

/-- Go on with `g` if `f` ran to its end. -/
def Flow.andThen (f : Flow) (g : Op) : Flow :=
  match f with
  | .ok s => g s
  | .ended s => .ended s
  | .refused r => .refused r

/-- Lines in the order written (00_scope.md R12, 20_memory.md R70). -/
def prog : List Op → Op
  | [] => fun s => .ok s
  | o :: os => fun s => (o s).andThen (prog os)

/-- A line that writes registers and touches neither a port nor the environment. -/
def update (f : State → State) : Op := fun s => .ok (f s)

/-- The outcome of a whole operation: a halt and a reset are effects of the machine, so both answer a next state. -/
def Flow.toOutcome : Flow → Host.Outcome State Fault Refusal
  | .ok s => .next s
  | .ended s => .next s
  | .refused r => .refused r

/-! ### Arithmetic at a parameter's width (00_scope.md R11) -/

/-- `a +_w b`: addition modulo `2^w`. -/
def addMod (w a b : Nat) : Nat := (a + b) % 2 ^ w

/-- `a -_w b`: subtraction modulo `2^w`. -/
def subMod (w a b : Nat) : Nat := (a + (2 ^ w - b % 2 ^ w)) % 2 ^ w

/-! ### Register accessors -/

/-- The debounce registers of instance `u` (10_state.md R21). -/
def State.db (s : State) : Button → Debounce
  | .ctrl => s.dbCtrl
  | .func => s.dbFunc

/-- Write the debounce registers of instance `u`; the other instance is untouched ("The two instances share
nothing", R21). -/
def State.setDb (s : State) (u : Button) (d : Debounce) : State :=
  match u with
  | .ctrl => { s with dbCtrl := d }
  | .func => { s with dbFunc := d }

/-- The level of input port `BTN[u]` (R33). -/
def State.btn (s : State) : Button → Bool
  | .ctrl => s.btnCtrl
  | .func => s.btnFunc

/-- The button environment sets the level of `BTN[u]`. -/
def State.setBtn (s : State) (u : Button) (v : Bool) : State :=
  match u with
  | .ctrl => { s with btnCtrl := v }
  | .func => { s with btnFunc := v }

/-- Append an event to the output trace (00_scope.md R13). -/
def State.log (s : State) (e : Event) : State := { s with trace := s.trace ++ [e] }

/-! ### Reset -/

/-- A reset that arrives during a run (70_reset_and_hazards.md R265, R267, R268): every PTC register and output port
takes its reset value, `SEC` is cleared, `RST` is low again, the framing checker (where one is attached) is back in
`IDLE`, the run's trace is ended and a new one begins empty. What PTC does not own stays: `TICK` ("keeps counting while
PTC is halted or in reset", 10_state.md R35), the input levels, the moves and words still to come, the buses. -/
def State.restart (s : State) : State :=
  { State.resetWith s.cfg with
    tick := s.tick
    btnCtrl := s.btnCtrl
    btnFunc := s.btnFunc
    tmrFail := s.tmrFail
    env := s.env
    issued := s.issued
    bus := s.bus
    qDig := s.qDig
    framing := s.framing.map fun _ => .idle
    pastRuns := s.pastRuns ++ [s.trace] }

/-- One line passes: a reset that is due arrives before it, one that is pending comes a line nearer. -/
def line : Op := fun s =>
  match s.rst with
  | none => .ok s
  | some 0 => .ended s.restart
  | some (k + 1) => .ok { s with rst := some k }

/-! ### The environment (00_scope.md R14, 20_memory.md R70) -/

/-- Whether a `SECTICK` can occur: always, or only while `TMR_RUN = 1` when `SEC_TICK_GATED` (10_state.md R36). -/
def State.secTickEnabled (s : State) : Bool := !s.cfg.secTickGated || s.tmrRun

/-- The arrival of `RST` with one more raising of it: the earlier arrival counts. -/
def sooner : Option Nat → Nat → Option Nat
  | none, k => some k
  | some j, k => some (min j k)

/-- One move of an agent outside PTC; it changes only what that agent owns. -/
def State.move (s : State) : EnvMove → State
  | .msTick => { s with tick := addMod s.cfg.wTick s.tick 1 }
  | .secTick => if s.secTickEnabled then { s with sec := addMod s.cfg.wSec s.sec 1 } else s
  | .btn u v => s.setBtn u v
  | .tmrFail v => { s with tmrFail := v }
  | .rst k => { s with rst := sooner s.rst k }

/-- The moves that fall before the next line that touches environment state, made in order. -/
def State.envMove (s : State) : State :=
  match s.env with
  | [] => s
  | ms :: rest => ms.foldl State.move { s with env := rest }

/-- The beginning of a line that reads or writes environment state. It is enough to interleave there: "the only lines
that read environment state are `in(BTN[u])`, `in(TICK)`, `in(SEC)` and `in(TMR_FAIL)`; the only lines that write it
are `clear(SEC)` and `TMR_RUN <- v`" (20_memory.md R71). -/
def envPoint : Op := fun s => line s.envMove

/-! ### Ports -/

/-- A line that drives an output port or waits: the event is on the trace before the next line runs (R73). -/
def output (e : Event) (drive : State → State) : Op := fun s =>
  (line s).andThen (update fun s => (drive s).log e)

/-- `CLK <- v` -/
def setClk (v : Bool) : Op := output (.clk v) fun s => { s with clk := v }

/-- `DIO <- v` -/
def setDio (v : Bool) : Op := output (.dio v) fun s => { s with dio := v }

/-- `BUZ <- v` -/
def setBuz (v : Bool) : Op := output (.buz v) fun s => { s with buz := v }

/-- `wait_us(n)` for the parameter `n` of the configuration: it "reads and writes no state" (00_scope.md R12). -/
def waitUs (n : Config → Nat) : Op := fun s => output (.waitUs (n s.cfg)) id s

/-- `wait_ms(n)` -/
def waitMs (n : Config → Nat) : Op := fun s => output (.waitMs (n s.cfg)) id s

/-- `clear(SEC)`: event `SEC_CLR`, `SEC <- 0` (10_state.md R36). -/
def clearSec : Op := fun s =>
  (envPoint s).andThen (update fun s => { s with sec := 0 }.log .secClr)

/-- `TMR_RUN <- RUN` (43_session.md R190). -/
def driveTmrRun : Op := fun s =>
  (envPoint s).andThen (update fun s => { s with tmrRun := s.run }.log (.tmrRun s.run))

/-- `r = in(BTN[u])`, then the lines that use `r`. -/
def sampleBtn (u : Button) (k : Bool → Op) : Op := fun s =>
  (envPoint s).andThen fun s => k (s.btn u) s

/-- `t = in(TICK)`, then the lines that use `t`. -/
def sampleTick (k : Nat → Op) : Op := fun s => (envPoint s).andThen fun s => k s.tick s

/-- `s = in(SEC)`, then the lines that use `s`. -/
def sampleSec (k : Nat → Op) : Op := fun s => (envPoint s).andThen fun s => k s.sec s

/-- `f = in(TMR_FAIL)`, then the lines that use `f`. -/
def sampleTmrFail (k : Bool → Op) : Op := fun s => (envPoint s).andThen fun s => k s.tmrFail s

/-! ### Register writes -/

def setMode (m : Mode) : Op := update fun s => { s with mode := m }

def setCyc (c : Nat) : Op := update fun s => { s with cyc := c }

def setTgt (t : Config → Nat) : Op := update fun s => { s with tgt := t s.cfg }

def setPh (p : Phase) : Op := update fun s => { s with ph := p }

def setDig (d : Digits) : Op := update fun s => { s with dig := d }

def setLast (e : Nat) : Op := update fun s => { s with last := e }

def setIdx (i : BitVec 3) : Op := update fun s => { s with idx := i }

/-! ### Taking a halt, and refusing -/

/-- `raise Halt(cause)` "does exactly this: `HALT <- 1`; `HCAUSE <-` the code of the cause; then the operation that
raised it ends, and so does every operation that called it" (60_exceptions.md R245). Nothing else is written. -/
def raiseHalt (c : HaltCause) : Op := fun s => .ended { s with halt := true, hcause := c }

/-- `raise Refuse(reason)` (60_exceptions.md R248). -/
def refuse (r : Refusal) : Op := fun _ => .refused r

/-- Run one whole operation. A reset that is due comes first. While `HALT = 1` "the sequencer executes nothing", the
environment goes on, and "The only exit is reset" (60_exceptions.md R246): the step then only lets the environment
move. Otherwise the operation runs. -/
def runOp (o : Op) (s : State) : Host.Outcome State Fault Refusal :=
  if s.rst = some 0 then .next s.restart
  else if s.halt then (envPoint s).toOutcome
  else (o s).toOutcome

end Sys2Proof.Machine
end

