-- ==== Sys2Proof/Machine/Flags.lean ====
section
/-! DEFINITION. PTC "has no condition-code register" (10_state.md R38): what steers it are one-bit registers and the
comparators below, each evaluated by polling (60_exceptions.md R256). -/

namespace Sys2Proof.Machine

open Sys2Proof

/-- The settle-window comparator `(t -_W_TICK CHG[u]) > DB_THRESHOLD` (42_debounce.md R172): strict, on a modular
difference. -/
def settled (c : Config) (t chg : Nat) : Bool := decide (c.dbThreshold < subMod c.wTick t chg)

/-- Whether step 2 of a poll commits: the window has elapsed and `r` differs from `STB[u]` (R171). -/
def commits (c : Config) (d : Debounce) (r : Bool) (t : Nat) : Bool := settled c t d.chg && (r != d.stb)

/-- Change detection of the refresh: the sample differs from `LAST` (44_refresh_scheduler.md R216). -/
def secChanged (sample last : Nat) : Bool := sample != last

/-- The rollover comparator: an equality, "It is not `>=`" (43_session.md R193). -/
def reachesTarget (sample tgt : Nat) : Bool := sample == tgt

/-- The range check of the digit encoder: `minutes <= 99` is `sec <= 5999` (40_digit_encoder.md R132). -/
def digitRangeOk (sec : Nat) : Bool := decide (sec < 6000)

/-- The glyph table's bounds check on the digits a frame sends: 12 to 15 are outside (30_encoding.md R104(a)). -/
def glyphRangeOk (ds : List Digit) : Bool := ds.all fun d => decide (d.toNat < 12)

/-- The frame length check: `n` in [`N_MIN`, `N_MAX`] (30_encoding.md R104(b)), and no more digits than the six lines
`F_DIG[0..5]` carry (R113). -/
def frameLengthOk (c : Config) (n : Nat) : Bool := decide (c.nMin ≤ n ∧ n ≤ c.nMax ∧ n ≤ 6)

end Sys2Proof.Machine
end

