-- ==== Sys2Proof/Machine/Operands.lean ====
section
/-! DEFINITION. Operand forms: digits, glyph bytes, the blink overlay, the operand buses (30_encoding.md sections 3 and
4), the transition function of the session (43_session.md R186, R189), the numeric codes of the enumerated registers
(30_encoding.md R117), and the wire formats as event lists (30_encoding.md sections 1 and 2). -/

namespace Sys2Proof.Machine

open Sys2Proof

/-! ### Digits and glyphs -/

/-- `toDigits` (40_digit_encoder.md R131): "output = [minutes/10, minutes%10, secs/10, secs%10]". It is given only for
`sec < 6000`; whoever calls it checks `digitRangeOk` first. -/
def toDigits (sec : Nat) : Digits where
  d0 := BitVec.ofNat 4 (sec / 60 / 10)
  d1 := BitVec.ofNat 4 (sec / 60 % 10)
  d2 := BitVec.ofNat 4 (sec % 60 / 10)
  d3 := BitVec.ofNat 4 (sec % 60 % 10)

/-- `GLYPH[d]` (20_memory.md R62). `WRFRAME` checks every index first, so the default is never sent. -/
def glyphOf (c : Config) (d : Digit) : Byte := c.glyph.toList.getD d.toNat 0

/-- `GLYPH[11]`, the dot-only mask (30_encoding.md R99). -/
def dotMask (c : Config) : Byte := c.glyph.toList.getD 11 0

/-- The byte of digit `d` on the wire: with the overlay, the glyph OR the dot mask (30_encoding.md R101). -/
def wireGlyph (c : Config) (k : Bool) (d : Digit) : Byte :=
  if k then glyphOf c d ||| dotMask c else glyphOf c d

/-- `A_SEC[W_SEC-1:0]` (30_encoding.md R113). -/
def State.busSec (s : State) : Nat := s.bus.aSec % 2 ^ s.cfg.wSec

/-- A digit the spec does not state, bounded as it says a refresh's digits are: "the digits it passes on are in range"
(60_exceptions.md R250). -/
def boundedDigit (d : Digit) : Digit := BitVec.ofNat 4 (d.toNat % 10)

/-- The lines `F_DIG[0..5]` when the refresh coordinator drives `F_DIG[0..3] = DIG[0..3]` (44_refresh_scheduler.md
R217). Lines 4 and 5, which it does not drive and which a frame of `N_BUF = 4` digits does not read, are free within
the range of a digit: they follow what the operand bus carries (assumption log 12). -/
def State.refreshDigits (s : State) : Vector Digit 6 :=
  #v[s.dig.d0, s.dig.d1, s.dig.d2, s.dig.d3, boundedDigit s.bus.fDig[4], boundedDigit s.bus.fDig[5]]

/-- The first `n` digits of the lines `F_DIG[0..5]`. -/
def firstDigits (n : Nat) (ds : Vector Digit 6) : List Digit := ds.toList.take n

/-! ### The session's transition function -/

/-- What a rollover changes: `MODE'`, `CYC'` and the number of buzzer pulses (43_session.md R186). -/
structure Rollover where
  mode : Mode
  cyc : Nat
  pulses : Nat
deriving DecidableEq, Repr

/-- `dur(MODE)` (43_session.md R187). -/
def dur (c : Config) : Mode → Nat
  | .focus => c.tFocus
  | .shortBreak => c.tShort
  | .longBreak => c.tLong

/-- The transition table with the increment at the Focus exit (43_session.md R186). -/
def nextAtFocusExit (c : Config) : Mode → Nat → Rollover
  | .focus, n => ⟨.shortBreak, addMod c.wCyc n 1, 1⟩
  | .shortBreak, n => if n < c.cycLimit then ⟨.focus, n, 2⟩ else ⟨.longBreak, 0, 2⟩
  | .longBreak, n => ⟨.focus, n, 3⟩

/-- The variant with the increment at the ShortBreak exit (43_session.md R189). -/
def nextAtShortExit (c : Config) : Mode → Nat → Rollover
  | .focus, n => ⟨.shortBreak, n, 1⟩
  | .shortBreak, n =>
    if addMod c.wCyc n 1 < c.cycLimit then ⟨.focus, addMod c.wCyc n 1, 2⟩ else ⟨.longBreak, 0, 2⟩
  | .longBreak, _ => ⟨.focus, 0, 3⟩

/-- `next(MODE, CYC)` under the configuration's `CYC_VARIANT`. -/
def nextMode (c : Config) (m : Mode) (n : Nat) : Rollover :=
  match c.cycVariant with
  | .atFocusExit => nextAtFocusExit c m n
  | .atShortExit => nextAtShortExit c m n

/-! ### The debounce transition rule -/

/-- Step 1 of a poll: a sample that differs from `RAW[u]` restarts the settle window (42_debounce.md R171). -/
def Debounce.observe (d : Debounce) (r : Bool) (t : Nat) : Debounce :=
  if r != d.raw then { d with raw := r, chg := t } else d

/-- Step 2's write: `STB[u] <- r`. -/
def Debounce.commit (d : Debounce) (r : Bool) : Debounce := { d with stb := r }

/-- One poll of a debounce instance as a function of the sample and the tick: its registers after, and whether the
edge event fires (R171). -/
def Debounce.poll (c : Config) (d : Debounce) (r : Bool) (t : Nat) : Debounce × Bool :=
  if commits c (d.observe r t) r t then ((d.observe r t).commit r, r == c.active) else (d.observe r t, false)

/-! ### Codes of the enumerated registers (30_encoding.md R117) -/

/-- `MODE`, 2 bits; 3 is never written. -/
def Mode.code : Mode → BitVec 2
  | .focus => 0
  | .shortBreak => 1
  | .longBreak => 2

/-- `PH`, 2 bits; 3 is never written. -/
def Phase.code : Phase → BitVec 2
  | .ctrlPoll => 0
  | .funcPoll => 1
  | .refresh => 2

/-- `PH <- (p + 1) % 3` (10_state.md R30). -/
def Phase.succ : Phase → Phase
  | .ctrlPoll => .funcPoll
  | .funcPoll => .refresh
  | .refresh => .ctrlPoll

/-- `HCAUSE`, 3 bits; 5 to 7 are never written. -/
def HaltCause.code : HaltCause → BitVec 3
  | .noCause => 0
  | .timerStart => 1
  | .timerStop => 2
  | .digitRange => 3
  | .glyphRange => 4

/-! ### The wire formats (30_encoding.md R90 to R95) and the cue (43_session.md R194), as event lists -/

/-- `S`, the start condition (R90). -/
def symS (c : Config) : List Event := [.clk true, .dio true, .waitUs c.tStartUs, .dio false]

/-- `b(v)`, a bit cell (R90). -/
def symBit (c : Config) (v : Bool) : List Event :=
  [.clk false, .dio v, .waitUs c.tBitLoUs, .clk true, .waitUs c.tBitHiUs]

/-- `B(x)`, eight bit cells, least significant bit first (R91). -/
def symByte (c : Config) (x : Byte) : List Event :=
  symBit c (x.getLsbD 0) ++ symBit c (x.getLsbD 1) ++ symBit c (x.getLsbD 2) ++ symBit c (x.getLsbD 3) ++
    symBit c (x.getLsbD 4) ++ symBit c (x.getLsbD 5) ++ symBit c (x.getLsbD 6) ++ symBit c (x.getLsbD 7)

/-- `A`, the acknowledge slot (R90). -/
def symA (c : Config) : List Event :=
  [.clk false, .waitUs c.tAckLoUs, .clk true, .waitUs c.tAckHiUs, .clk false]

/-- `P`, the stop condition (R90). -/
def symP (c : Config) : List Event :=
  [.clk false, .waitUs c.tStopUs, .dio false, .waitUs c.tStopUs, .clk true, .waitUs c.tStopUs, .dio true]

/-- Bytes, each followed by its acknowledge slot (R94). -/
def ackedBytes (c : Config) (bs : List Byte) : List Event := bs.flatMap fun b => symByte c b ++ symA c

/-- `S ( B(x) A )+ P` (R94): one transaction carrying `bs`; T1 of R92 is the one with one byte. -/
def transaction (c : Config) (bs : List Byte) : List Event := symS c ++ ackedBytes c bs ++ symP c

/-- Format FR (R95): `T1(dataCmd) TD(address, g[0..n-1]) T1(displayCmd)`, with the overlay of R101 on the glyphs. -/
def frameEvents (c : Config) (k : Bool) (dcmd addr : Byte) (ds : List Digit) (disp : Byte) : List Event :=
  transaction c [dcmd] ++ transaction c (addr :: ds.map (wireGlyph c k)) ++ transaction c [disp]

/-- One pulse of a cue of `p` pulses: the off-wait only where `p >= 2` (43_session.md R194). -/
def pulseEvents (c : Config) (p : Nat) : List Event :=
  [.buz true, .waitMs c.tBuzOnMs, .buz false] ++ (if 2 ≤ p then [.waitMs c.tBuzOffMs] else [])

/-- The cue of `p` pulses. -/
def cueEvents (c : Config) (p : Nat) : List Event := (List.replicate p (pulseEvents c p)).flatten

end Sys2Proof.Machine
end

