-- ==== Sys2Proof/Machine/Session.lean ====
section
/-! DEFINITION. The session state machine (43_session.md): `CTRLEDGE`, `FUNCEDGE`, `AUTOROLL`, `CUE`. -/

namespace Sys2Proof.Machine

open Sys2Proof

/-- The halt of a failed timer start or stop: the new value of `RUN` selects the cause (R190, 60_exceptions.md
R242, R243). -/
def haltTimer : Op := fun s => raiseHalt (if s.run then .timerStart else .timerStop) s

/-- `CTRLEDGE` (R190): toggle `RUN`, start or stop the seconds timer, and reset the session in full. -/
def ctrlEdge : Op := prog
  [update fun s => { s with run := !s.run },
    driveTmrRun,
    sampleTmrFail fun f =>
      if f then haltTimer
      else prog [clearSec, setMode .focus, setTgt Config.tFocus, setCyc 0]]

/-- The shared rollover procedure `ROLL` (R187) and the line that uses the pulse count it returns. -/
def roll (k : Nat → Op) : Op := fun s =>
  prog
    [setMode (nextMode s.cfg s.mode s.cyc).mode,
      setCyc (nextMode s.cfg s.mode s.cyc).cyc,
      clearSec,
      setTgt fun c => dur c (nextMode s.cfg s.mode s.cyc).mode,
      k (nextMode s.cfg s.mode s.cyc).pulses] s

/-- `FUNCEDGE` (R191): the manual rollover; the pulse count is discarded, `RUN` is not read. -/
def funcEdge : Op := roll fun _ => prog []

/-- One pulse of a cue of `p` pulses (R194). -/
def pulse (p : Nat) : Op := prog
  [setBuz true, waitMs Config.tBuzOnMs, setBuz false, if 2 ≤ p then waitMs Config.tBuzOffMs else prog []]

/-- `repeat n times` the pulse of a cue of `p` pulses. -/
def pulses (p : Nat) : Nat → Op
  | 0 => prog []
  | n + 1 => prog [pulse p, pulses p n]

/-- `CUE p` (R194): `Refuse(IllegalWord)` for `p = 0`. -/
def cue (p : Nat) : Op := if p = 0 then refuse .illegalWord else pulses p p

/-- `AUTOROLL` (R192): the rollover, then the cue of the mode that was left. -/
def autoRoll : Op := roll cue

/-- `CTRLEDGE` (R190). -/
def execCtrlEdge (s : State) : Host.Outcome State Fault Refusal := runOp ctrlEdge s

/-- `FUNCEDGE` (R191). -/
def execFuncEdge (s : State) : Host.Outcome State Fault Refusal := runOp funcEdge s

/-- `AUTOROLL` (R192). -/
def execAutoRoll (s : State) : Host.Outcome State Fault Refusal := runOp autoRoll s

/-- `CUE p` (R194). -/
def execCue (p : BitVec 2) (s : State) : Host.Outcome State Fault Refusal := runOp (cue p.toNat) s

end Sys2Proof.Machine
end

