-- ==== Sys2Proof/Machine/DebounceFilter.lean ====
section
/-! DEFINITION. The debounce filter (42_debounce.md): `DBPOLL u`, two instances. -/

namespace Sys2Proof.Machine

open Sys2Proof

/-- The action of the edge event of instance `u`: `EV_CTRL` runs `CTRLEDGE`, `EV_FUNC` runs `FUNCEDGE` (R171). -/
def fire : Button → Op
  | .ctrl => ctrlEdge
  | .func => funcEdge

/-- Step 1 of a poll (R171). -/
def dbObserve (u : Button) (r : Bool) (t : Nat) : Op :=
  update fun s => s.setDb u ((s.db u).observe r t)

/-- Step 2 of a poll (R171): a commit of the pressed level fires, a commit of the other level does not (R174). -/
def dbCommit (u : Button) (r : Bool) (t : Nat) : Op := fun s =>
  if commits s.cfg (s.db u) r t then
    prog
      [update fun s => s.setDb u ((s.db u).commit r),
        if r == s.cfg.active then fire u else prog []] s
  else .ok s

/-- `DBPOLL u` (R171): the pin is sampled once and then the tick once, both steps use the same samples, and the event
and its action happen inside the poll that commits ("commit and fire are the same step", R177). -/
def dbPoll (u : Button) : Op :=
  sampleBtn u fun r => sampleTick fun t => prog [dbObserve u r t, dbCommit u r t]

/-- `DBPOLL u` (R171). -/
def execDbPoll (u : Button) (s : State) : Host.Outcome State Fault Refusal := runOp (dbPoll u) s

end Sys2Proof.Machine
end

