-- ==== Sys2Proof/Machine/DigitEncoder.lean ====
section
/-! DEFINITION. The digit encoder: `TODIGITS` (40_digit_encoder.md). -/

namespace Sys2Proof.Machine

open Sys2Proof

/-- `TODIGITS(sec = e)` and the lines that use its result: `Halt(DigitRange)` for `e >= 6000` (40_digit_encoder.md
R131, R132). -/
def encodeDigits (e : Nat) (k : Digits → Op) : Op :=
  if digitRangeOk e then k (toDigits e) else raiseHalt .digitRange

/-- `TODIGITS` issued by itself: the operand on `A_SEC`, the result on `Q_DIG[0..3]`; no register is written and no
event emitted. -/
def toDigitsOp : Op := fun s => encodeDigits s.busSec (fun d => update fun s => { s with qDig := d }) s

/-- `TODIGITS` (R131). -/
def execToDigits (s : State) : Host.Outcome State Fault Refusal := runOp toDigitsOp s

end Sys2Proof.Machine
end

