-- ==== Sys2Proof/Machine/SerialEngine.lean ====
section
/-! DEFINITION. The serial protocol engine (41_serial_engine.md): the four primitives `START`, `STOP`, `WRBYTE`,
`WAITACK`, and the three composites, whose semantics is their expansion (30_encoding.md R116). No operation here reads
environment state (R152), and none reads the acknowledge (R146). -/

namespace Sys2Proof.Machine

open Sys2Proof

/-! ### The framing checker (R141) -/

/-- The four primitive operations, as the tracker tells them apart. -/
inductive Prim where
  | start
  | byte
  | ack
  | stop
deriving DecidableEq, Repr

/-- The tracker's table (R141): the state after a primitive, or none where the checker refuses it. -/
def Tracker.next : Tracker → Prim → Option Tracker
  | .idle, .start => some .open0
  | .open0, .byte => some .sent
  | .sent, .ack => some .open1
  | .open1, .byte => some .sent
  | .open1, .stop => some .idle
  | .idle, .byte => none
  | .idle, .ack => none
  | .idle, .stop => none
  | .open0, .start => none
  | .open0, .ack => none
  | .open0, .stop => none
  | .sent, .start => none
  | .sent, .byte => none
  | .sent, .stop => none
  | .open1, .start => none
  | .open1, .ack => none

/-- The checker after a primitive: the bare hardware (no checker) accepts every one ("The hardware does not check
them: each primitive emits its events whatever came before", R141). -/
def trackNext (f : Option Tracker) (p : Prim) : Option (Option Tracker) :=
  match f with
  | none => some none
  | some t => (t.next p).map some

/-- The checker's part of a primitive: go to the next tracker state, or `Refuse(Framing)`. -/
def track (p : Prim) : Op := fun s =>
  match trackNext s.framing p with
  | some f => .ok { s with framing := f }
  | none => .refused .framing

/-- Whether the checker, where one is attached, lets a composite run: only from `IDLE` (R141, last column). -/
def compositeOk (f : Option Tracker) : Bool := f == none || f == some .idle

/-- The checker's part of a composite. -/
def trackComposite : Op := fun s => if compositeOk s.framing then .ok s else .refused .framing

/-! ### Primitives -/

/-- `START` (R142). -/
def start : Op := prog
  [track .start, setClk true, setDio true, waitUs Config.tStartUs, setDio false]

/-- `STOP` (R143). -/
def stop : Op := prog
  [track .stop, setClk false, waitUs Config.tStopUs, setDio false, waitUs Config.tStopUs, setClk true,
    waitUs Config.tStopUs, setDio true]

/-- `DIO <- SHR[0]` (R144). -/
def dioFromShr : Op := fun s => setDio (s.shr.getLsbD 0) s

/-- The body of `WRBYTE`'s loop (R144): one bit cell, `SHR` shifted right with zero fill, `BITC` counted down. -/
def bitCell : Op := prog
  [setClk false, dioFromShr, waitUs Config.tBitLoUs, update fun s => { s with shr := s.shr >>> 1 }, setClk true,
    waitUs Config.tBitHiUs, update fun s => { s with bitc := s.bitc - 1 }]

/-- `while BITC != 0` (R144), for the `n` rounds the loop makes from `BITC = n`. -/
def bitCells : Nat → Op
  | 0 => prog []
  | n + 1 => prog [bitCell, bitCells n]

/-- `WRBYTE b` (R144). -/
def wrByte (b : Byte) : Op := prog
  [track .byte, update fun s => { s with shr := b, bitc := 8 }, bitCells 8]

/-- `WAITACK` (R145): no input, no result (R146). -/
def waitAck : Op := prog
  [track .ack, setClk false, waitUs Config.tAckLoUs, setClk true, waitUs Config.tAckHiUs, setClk false]

/-! ### Composites -/

/-- The single-byte transaction both command operations send (R148, R149; format T1, 30_encoding.md R92). -/
def sendCommand (b : Byte) : Op := prog [trackComposite, start, wrByte b, waitAck, stop]

/-- The loop of `WRFRAME` (R150): for each digit from the lowest index up, its glyph byte and an acknowledge slot. -/
def sendDigits (k : Bool) : List Digit → Op
  | [] => prog []
  | d :: ds => prog
      [fun s => wrByte (wireGlyph s.cfg k d) s, waitAck, update fun s => { s with idx := s.idx + 1 },
        sendDigits k ds]

/-- The three transactions of a frame, once its operands are checked (R150). -/
def sendFrame (k : Bool) (dcmd addr : Byte) (ds : List Digit) (disp : Byte) : Op := prog
  [sendCommand dcmd, start, wrByte addr, waitAck, setIdx 0, sendDigits k ds, stop, sendCommand disp]

/-- `WRFRAME` (R150): the length is tested first and the digit values second (60_exceptions.md R250), "before any
event". The framing checker speaks before the hardware runs, hence before the halt (assumption log 11). -/
def wrFrame (n : Nat) (k : Bool) (dcmd addr : Byte) (lines : Vector Digit 6) (disp : Byte) : Op := fun s =>
  if frameLengthOk s.cfg n then
    prog
      [trackComposite,
        if glyphRangeOk (firstDigits n lines) then sendFrame k dcmd addr (firstDigits n lines) disp
        else raiseHalt .glyphRange] s
  else .refused .frameLength

/-! ### Meanings -/

/-- `START` (R142). -/
def execStart (s : State) : Host.Outcome State Fault Refusal := runOp start s

/-- `STOP` (R143). -/
def execStop (s : State) : Host.Outcome State Fault Refusal := runOp stop s

/-- `WRBYTE b` (R144). -/
def execWrByte (b : Byte) (s : State) : Host.Outcome State Fault Refusal := runOp (wrByte b) s

/-- `WAITACK` (R145). -/
def execWaitAck (s : State) : Host.Outcome State Fault Refusal := runOp waitAck s

/-- `WRDATACMD b` (R148). -/
def execWrDataCmd (b : Byte) (s : State) : Host.Outcome State Fault Refusal := runOp (sendCommand b) s

/-- `WRDISPCMD b` (R149). -/
def execWrDispCmd (b : Byte) (s : State) : Host.Outcome State Fault Refusal := runOp (sendCommand b) s

/-- `WRFRAME` issued by itself, with its wide operands on the operand buses (R150, 30_encoding.md R113). -/
def execWrFrame (k : Bool) (n : BitVec 3) (s : State) : Host.Outcome State Fault Refusal :=
  runOp (wrFrame n.toNat k s.bus.fDcmd s.bus.fAddr s.bus.fDig s.bus.fDisp) s

end Sys2Proof.Machine
end

