-- ==== Sys2Proof/Machine/Coordinator.lean ====
section
/-! DEFINITION. The display refresh coordinator and the scheduler (44_refresh_scheduler.md): `REFRESH`, `ITER`, the
sequencer's wired loop over `PH` (10_state.md R30), and the fetch of a word a harness has issued. -/

namespace Sys2Proof.Machine

open Sys2Proof

/-! ### REFRESH -/

/-- `call WRFRAME(n = N_BUF, k = BLINK, …)` (R217), on the values `BLINK` and `DIG` have at the call. -/
def sendDisplay : Op := fun s =>
  wrFrame s.cfg.nBuf s.blink s.cfg.cmdData s.cfg.cmdAddr s.refreshDigits s.cfg.cmdDisp s

/-- The lines of `REFRESH` that render the value `e` (R217): digits, blink, frame, `LAST`, in PT's order. -/
def render (e : Nat) : Op :=
  encodeDigits e fun d => prog
    [setDig d, update fun s => { s with blink := !s.blink }, sendDisplay, setLast e]

/-- `REFRESH` (R217): `SEC` is sampled once; an unchanged sample is a no-op; a sample that equals `TGT` rolls over
first and renders 0. -/
def refresh : Op :=
  sampleSec fun e s =>
    if secChanged e s.last then
      if reachesTarget e s.tgt then prog [autoRoll, render 0] s else render e s
    else .ok s

/-! ### The sequencer -/

/-- The operation of phase `p` (10_state.md R30). -/
def phaseBody : Phase → Op
  | .ctrlPoll => dbPoll .ctrl
  | .funcPoll => dbPoll .func
  | .refresh => refresh

/-- One phase of the sequencer: its operation, then `PH <- (p + 1) % 3` if it completed (10_state.md R30). -/
def phaseStep (p : Phase) : Op := prog [phaseBody p, setPh p.succ]

/-- `ITER` (R221): the three phases in the fixed order, "with `PH` stepping 0, 1, 2, 0" (assumption log 9 for an
`ITER` issued while `PH` is not 0). -/
def iter : Op := prog
  [setPh .ctrlPoll, phaseStep .ctrlPoll, phaseStep .funcPoll, phaseStep .refresh]

/-- The sequencer's own step: the operation `PH` names (R222, 70_reset_and_hazards.md R266). -/
def State.sequence (s : State) : Host.Outcome State Fault Refusal := runOp (phaseStep s.ph) s

/-! ### Issued words -/

/-- The refusal of a word the decoder rejects (30_encoding.md R114, 60_exceptions.md R248). -/
def refusalOf : DecodeError → Refusal
  | .illegalWord => .illegalWord
  | .frameLength => .frameLength

/-- The state in which an issued word runs: the word is off the list and its bus values are on the operand buses. -/
def State.accept (s : State) (q : Issue) (rest : List Issue) : State := { s with issued := rest, bus := q.bus }

/-- Put a word at the head of the issued words, with the operand buses as they stand. -/
def State.issueWord (s : State) (w : MicroWord) : State := { s with issued := ⟨w, s.bus⟩ :: s.issued }

/-! ### Meanings -/

/-- `REFRESH` (R217). -/
def execRefresh (s : State) : Host.Outcome State Fault Refusal := runOp refresh s

/-- `ITER` (R221). -/
def execIter (s : State) : Host.Outcome State Fault Refusal := runOp iter s

end Sys2Proof.Machine
end

