-- ==== Sys2Proof/Machine/Dispatch.lean ====
section
/-! DEFINITION. The dispatch of an operation to its meaning, one arm per row of spec/opcode_table.json. -/

namespace Sys2Proof.Machine
open Sys2Proof

def exec (i : Instr) (s : State) : Host.Outcome State Fault Refusal :=
  match i with
  | .start => Sys2Proof.Machine.execStart s
  | .stop => Sys2Proof.Machine.execStop s
  | .wrbyte b => Sys2Proof.Machine.execWrByte b s
  | .waitack => Sys2Proof.Machine.execWaitAck s
  | .wrdatacmd b => Sys2Proof.Machine.execWrDataCmd b s
  | .wrdispcmd b => Sys2Proof.Machine.execWrDispCmd b s
  | .wrframe k n => Sys2Proof.Machine.execWrFrame k n s
  | .todigits => Sys2Proof.Machine.execToDigits s
  | .dbpoll u => Sys2Proof.Machine.execDbPoll u s
  | .ctrledge => Sys2Proof.Machine.execCtrlEdge s
  | .funcedge => Sys2Proof.Machine.execFuncEdge s
  | .autoroll => Sys2Proof.Machine.execAutoRoll s
  | .refresh => Sys2Proof.Machine.execRefresh s
  | .cue p => Sys2Proof.Machine.execCue p s
  | .iter => Sys2Proof.Machine.execIter s

end Sys2Proof.Machine
end

