-- ==== Sys2Proof/Machine/Step.lean ====
section
/-! DEFINITION. One step of the machine. PTC fetches no instructions (20_memory.md R76): its sequencer runs a wired
loop (R222). A word that a harness has issued ("a model that lets a test supply words", 30_encoding.md R114) runs
before the sequencer goes on. -/

namespace Sys2Proof.Machine

open Sys2Proof

/-- One step: the operation of the oldest issued word where there is one, else the sequencer's next phase. -/
def step (s : State) : Host.Outcome State Fault Refusal :=
  match s.issued with
  | [] => s.sequence
  | q :: rest =>
    match decode q.word with
    | .ok i => exec i (s.accept q rest)
    | .error e => .refused (refusalOf e)

/-- The state whose next step runs the word with the bits `w` (30_encoding.md R110; assumption log 7). -/
def State.withFetchWord (s : State) (_nbits w : Nat) : State := s.issueWord (BitVec.ofNat 12 w)

end Sys2Proof.Machine
end

