-- ==== Sys2Proof/Safety.lean ====
section
/-! DEFINITION. What counts as a safe state and a safe run, and the measures of a trace, in the terms the statements
use. Nothing here is read by the machine. -/

namespace Sys2Proof.Machine

open Sys2Proof

/-! ### Premises about the environment -/

/-- Whether a move raises `RST`. -/
def EnvMove.isRst : EnvMove → Bool
  | .rst _ => true
  | _ => false

/-- Whether a move reports a timer failure. -/
def EnvMove.failsTimer : EnvMove → Bool
  | .tmrFail v => v
  | _ => false

/-- Whether a move is a `SECTICK`. -/
def EnvMove.isSecTick : EnvMove → Bool
  | .secTick => true
  | _ => false

/-- No reset is pending and none will be raised. -/
def State.NoReset (s : State) : Prop := s.rst = none ∧ ∀ ms ∈ s.env, ∀ m ∈ ms, m.isRst = false

/-- The platform holds `TMR_FAIL` at 0 (60_exceptions.md R262). -/
def State.TimerSound (s : State) : Prop :=
  s.tmrFail = false ∧ ∀ ms ∈ s.env, ∀ m ∈ ms, m.failsTimer = false

/-- The greatest value `SEC` can reach under the moves still to come. -/
def State.secReach (s : State) : Nat := s.sec + (s.env.flatten.filter EnvMove.isSecTick).length

/-- The frames the refresh coordinator sends have a legal length: `N_MIN <= N_BUF <= N_MAX` (00_scope.md R10) and no
more digits than `F_DIG` has lines. -/
abbrev FrameFits (c : Config) : Prop := frameLengthOk c c.nBuf = true

/-! ### Invariants (10_state.md R40) -/

/-- The range of the cycle counter in each mode (10_state.md R24; for the variant of 43_session.md R189, one less
during a ShortBreak). -/
def cycInRange (c : Config) (m : Mode) (n : Nat) : Prop :=
  match c.cycVariant, m with
  | .atFocusExit, .focus => n < c.cycLimit
  | .atFocusExit, .shortBreak => 1 ≤ n ∧ n ≤ c.cycLimit
  | .atShortExit, .focus => n < c.cycLimit
  | .atShortExit, .shortBreak => n < c.cycLimit
  | _, .longBreak => n = 0

/-- The session's part of R40: (a) `TGT == dur(MODE)`, (c) the range of `CYC`, (d) `TMR_RUN == RUN`,
(e) `BUZ == 0`; `HCAUSE` says why exactly while `HALT` is set (R29); every display digit is in [0, 9] (R26). -/
structure SessionOk (s : State) : Prop where
  valid : s.cfg.Valid
  target : s.tgt = dur s.cfg s.mode
  counter : cycInRange s.cfg s.mode s.cyc
  timer : s.tmrRun = s.run
  silent : s.buz = false
  cause : s.halt = true ↔ s.hcause ≠ .noCause
  digits : s.dig.d0.toNat ≤ 9 ∧ s.dig.d1.toNat ≤ 9 ∧ s.dig.d2.toNat ≤ 5 ∧ s.dig.d3.toNat ≤ 9

/-- Every counter fits the width the configuration gives it (10_state.md R20). -/
structure WidthsOk (s : State) : Prop where
  tick : s.tick < 2 ^ s.cfg.wTick
  sec : s.sec < 2 ^ s.cfg.wSec
  tgt : s.tgt < 2 ^ s.cfg.wSec
  last : s.last < 2 ^ s.cfg.wSec
  cyc : s.cyc < 2 ^ s.cfg.wCyc
  chg : ∀ u, (s.db u).chg < 2 ^ s.cfg.wTick

/-- The bus is idle (10_state.md R40 (f)) and no transaction is open for the checker, where one is attached. -/
abbrev State.LinesIdle (s : State) : Prop :=
  s.clk = true ∧ s.dio = true ∧ compositeOk s.framing = true

/-- What the framing checker's state says of the two lines (30_encoding.md R96 (a) and (f)). -/
abbrev State.LinesTracked (s : State) : Prop :=
  match s.framing with
  | none => False
  | some .idle => s.clk = true ∧ s.dio = true
  | some .open0 => s.clk = true ∧ s.dio = false
  | some .sent => s.clk = true
  | some .open1 => s.clk = false

/-- No `SECTICK` is still to come. -/
abbrev State.NoSecTick (s : State) : Prop := ∀ ms ∈ s.env, ∀ m ∈ ms, m.isSecTick = false

/-- The sequencer runs by itself, no reset and no second is still to come, and no second has elapsed that is not drawn:
`SEC` and `LAST` are both 0, as right after reset (10_state.md R43). -/
structure BeforeFirstSecond (s : State) : Prop where
  wired : s.issued = []
  noReset : s.NoReset
  noSecTick : s.NoSecTick
  sec : s.sec = 0
  last : s.last = 0

/-! ### Measures of a trace -/

/-- The least microseconds an event takes (00_scope.md R13). -/
def Event.leastUs : Event → Nat
  | .waitUs n => n
  | .waitMs n => 1000 * n
  | _ => 0

/-- The least duration of a trace: the sum of its waits (30_encoding.md R97). -/
def leastDuration (es : List Event) : Nat := (es.map Event.leastUs).sum

/-- The levels a receiver that looks at `DIO` whenever `CLK` rises sees, from the levels `c` and `d` the lines have
before. -/
def risingSamples (c d : Bool) : List Event → List Bool
  | [] => []
  | .clk v :: es => if v && !c then d :: risingSamples v d es else risingSamples v d es
  | .dio v :: es => risingSamples c v es
  | _ :: es => risingSamples c d es

/-- The changes of `DIO` while `CLK` is high, in order: the level `DIO` goes to at each (30_encoding.md R96 (b)). -/
def dioMovesWhileHigh (c d : Bool) : List Event → List Bool
  | [] => []
  | .clk v :: es => dioMovesWhileHigh v d es
  | .dio v :: es => if c && v != d then v :: dioMovesWhileHigh c v es else dioMovesWhileHigh c v es
  | _ :: es => dioMovesWhileHigh c d es

/-- The levels of `CLK` and `DIO` after the events, from the levels `x` before. -/
def levelsAfter (x : Bool × Bool) : List Event → Bool × Bool
  | [] => x
  | .clk v :: es => levelsAfter (v, x.2) es
  | .dio v :: es => levelsAfter (x.1, v) es
  | _ :: es => levelsAfter x es

/-- The bits of a byte, least significant first (20_memory.md R64). -/
def bitsOf (b : Byte) : List Bool := (List.range 8).map b.getLsbD

/-- Whether an event is a write of `DIO`. -/
def Event.isDio : Event → Bool
  | .dio _ => true
  | _ => false

/-- Whether an event is a write of `CLK`. -/
def Event.isClk : Event → Bool
  | .clk _ => true
  | _ => false

/-- The frame a refresh sends for the second `e` with `BLINK = k` after its toggle, under the configuration and with the
operand bus of `s` (44_refresh_scheduler.md R217). -/
def State.frameOfSecond (s : State) (e : Nat) (k : Bool) : List Event :=
  frameEvents s.cfg k s.cfg.cmdData s.cfg.cmdAddr
    (firstDigits s.cfg.nBuf (State.refreshDigits { s with dig := toDigits e })) s.cfg.cmdDisp

/-- `BLINK` after `n` refreshes that drew (44_refresh_scheduler.md R220). -/
def State.blinkAfter (s : State) (n : Nat) : Bool := s.blink ^^ (n % 2 == 1)

/-- The frames of the seconds 1 to `n`, each with the colon the other way than the one before. -/
def State.framesOfSeconds (s : State) (n : Nat) : List Event :=
  (List.range n).flatMap fun i => s.frameOfSecond (i + 1) (s.blinkAfter (i + 1))

/-! ### Sequences of polls, of rollovers, of seconds -/

/-- A debounce instance over a sequence of polls: its registers at the end, and whether each poll fired
(42_debounce.md R180). -/
def pollAll (c : Config) (d : Debounce) : List (Bool × Nat) → Debounce × List Bool
  | [] => (d, [])
  | (r, t) :: ps =>
    ((pollAll c (d.poll c r t).1 ps).1, (d.poll c r t).2 :: (pollAll c (d.poll c r t).1 ps).2)

/-- Only the first `true` of a list stays. -/
def onlyFirst : List Bool → List Bool
  | [] => []
  | true :: bs => true :: bs.map fun _ => false
  | false :: bs => false :: onlyFirst bs

/-- `n` rollovers from `MODE = m`, `CYC = k`: the mode and the counter they lead to (43_session.md R188). -/
def rollMany (c : Config) : Nat → Mode × Nat → Mode × Nat
  | 0, x => x
  | n + 1, x => rollMany c n ((nextMode c x.1 x.2).mode, (nextMode c x.1 x.2).cyc)

/-- `n` iterations of the scheduler, one `SECTICK` falling before the sample of `SEC` in each: the environment's moves
before an iteration's three first samples (control button, tick, function button, tick, `SEC`) are set so, and nothing
else happens outside PTC. None where an iteration does not answer a next state. -/
def runSeconds : Nat → State → Option State
  | 0, s => some s
  | n + 1, s =>
    match exec .iter { s with env := [[], [], [], [], [.secTick]] } with
    | .next t => runSeconds n t
    | _ => none

/-- Operations issued one by one, each run from the state the one before left; none where one does not answer a next
state. -/
def runList : List Instr → State → Option State
  | [], s => some s
  | i :: is, s =>
    match exec i s with
    | .next t => runList is t
    | _ => none

/-- The expansion of `WRFRAME` into operations (30_encoding.md R116), with the glyph bytes of R101. -/
def frameExpansion (c : Config) (k : Bool) (dcmd addr : Byte) (ds : List Digit) (disp : Byte) : List Instr :=
  [.wrdatacmd dcmd, .start, .wrbyte addr, .waitack] ++ ds.flatMap (fun d => [.wrbyte (wireGlyph c k d), .waitack]) ++
    [.stop, .wrdispcmd disp]

/-- The operation the sequencer runs at phase `p` (10_state.md R30). -/
def Phase.instr : Phase → Instr
  | .ctrlPoll => .dbpoll .ctrl
  | .funcPoll => .dbpoll .func
  | .refresh => .refresh

/-! ### The two variants of the cycle counter (43_session.md R189) -/

/-- `CYC_A == CYC_B + (1 if MODE == ShortBreak else 0)`: the counter of variant B beside one of variant A. -/
def cycOfVariantB (m : Mode) (n : Nat) : Nat := if m = .shortBreak then n - 1 else n

/-- The machine of variant `AT_SHORT_EXIT` that stands beside a machine `s` of variant `AT_FOCUS_EXIT`: everything but
the counter and the variant itself is the same. -/
def State.twinB (s : State) : State :=
  { s with cfg := { s.cfg with cycVariant := .atShortExit }, cyc := cycOfVariantB s.mode s.cyc }

end Sys2Proof.Machine
end

