-- ==== Sys2Proof/Certificates/Slice0/Obligations.lean ====
section
/-! DEFINITION. The statements for the provers. Each docstring names the rules of spec/ it formalises. Premises that
come back: `s.halt = false` (a halted PTC runs nothing, 60_exceptions.md R246, stated by `HaltedStateIsAbsorbing`) and
`s.rst = none` or `s.NoReset` (no reset arrives during the operation; `DueResetComesFirst` and
`ResetCutsAnOperationShort` state what one does). `s.envMove` is the state after the moves the agents outside PTC make
before the next line that touches their state (20_memory.md R70, R71). -/

open Sys2Proof Sys2Proof.Machine

/-! ### Encoding (30_encoding.md section 4) -/

/-- Decode and encode agree: every well-formed operation, with every operand, is what its word decodes to. -/
def Obligations.EncodedWordDecodesBack : Prop :=
  ∀ i : Instr, i.wellFormed = true → decode (encode i) = .ok i

/-- The other direction: a word that decodes is well formed and is the one word of its operation, so no reserved word
falls through to a neighbour. -/
def Obligations.DecodedWordIsItsEncoding : Prop :=
  ∀ (w : MicroWord) (i : Instr), decode w = .ok i → i.wellFormed = true ∧ encode i = w

/-- R114: the reserved and illegal words, each refused by its name, format by format. -/
def Obligations.ReservedWordsAreRejectedByName : Prop :=
  ∀ w : MicroWord,
    (w.extractLsb' 8 4 = 0xF#4 → decode w = .error .illegalWord) ∧
    (w.extractLsb' 8 4 ∈ [0x0#4, 0x1#4, 0x3#4, 0x7#4, 0x9#4, 0xA#4, 0xB#4, 0xC#4, 0xE#4] →
      w.extractLsb' 0 8 ≠ 0#8 → decode w = .error .illegalWord) ∧
    (w.extractLsb' 8 4 = 0x6#4 → w.extractLsb' 4 4 ≠ 0#4 → decode w = .error .illegalWord) ∧
    (w.extractLsb' 8 4 = 0x6#4 → w.extractLsb' 4 4 = 0#4 → w.extractLsb' 0 3 ∈ [0#3, 1#3, 2#3, 3#3, 7#3] →
      decode w = .error .frameLength) ∧
    (w.extractLsb' 8 4 = 0x8#4 → w.extractLsb' 1 7 ≠ 0#7 → decode w = .error .illegalWord) ∧
    (w.extractLsb' 8 4 = 0xD#4 → w.extractLsb' 2 6 ≠ 0#6 ∨ w.extractLsb' 0 2 = 0#2 →
      decode w = .error .illegalWord)

/-- A few words of 95_test_vectors.md V60, one of each format. -/
def Obligations.SampleWordsDecode : Prop :=
  decode 0x000#12 = .ok .start ∧ decode 0x240#12 = .ok (.wrbyte 0x40) ∧ decode 0x58F#12 = .ok (.wrdispcmd 0x8F) ∧
  decode 0x60D#12 = .ok (.wrframe true 5) ∧ decode 0x700#12 = .ok .todigits ∧ decode 0x801#12 = .ok (.dbpoll .func) ∧
  decode 0x900#12 = .ok .ctrledge ∧ decode 0xC00#12 = .ok .refresh ∧ decode 0xD03#12 = .ok (.cue 3) ∧
  decode 0xE00#12 = .ok .iter

/-! ### The step -/

/-- A step runs the decoded operation: the oldest issued word leaves the list, its bus values stand on the operand
buses, and the operation runs; a word that does not decode is refused by its name and changes nothing. The list of
issued words is the model's own (assumption log 7). -/
def Obligations.StepRunsTheDecodedWord : Prop :=
  ∀ (s : State) (q : Issue) (rest : List Issue), s.issued = q :: rest →
    (∀ i, decode q.word = .ok i → step s = exec i { s with issued := rest, bus := q.bus }) ∧
    (decode q.word = .error .illegalWord → step s = .refused .illegalWord) ∧
    (decode q.word = .error .frameLength → step s = .refused .frameLength)

/-- The word the host places is the one the next step runs, from the very state it is placed in (assumption log 7). -/
def Obligations.PlacedWordRunsNext : Prop :=
  ∀ (s : State) (nbits w : Nat) (i : Instr), decodeTableWord nbits w = some i →
    step (s.withFetchWord nbits w) = exec i s

/-- R30: with no issued word, the sequencer runs the operation `PH` names and then `PH <- (p + 1) % 3`; where the
operation halts, `PH` keeps its phase (R245). -/
def Obligations.SequencerRunsThePhaseAndAdvances : Prop :=
  ∀ s t : State, s.issued = [] → s.NoReset → s.halt = false → exec s.ph.instr s = .next t →
    t.ph = s.ph ∧
    step s = .next (if t.halt then t else { t with ph := match s.ph with
      | .ctrlPoll => .funcPoll
      | .funcPoll => .refresh
      | .refresh => .ctrlPoll })

/-! ### The serial engine (41_serial_engine.md) -/

/-- The tracker's table of R141: exactly these five moves, every other primitive refused. -/
def Obligations.FramingTrackerTable : Prop :=
  ∀ (t t' : Tracker) (p : Prim), t.next p = some t' ↔
    (t, p, t') ∈ [(Tracker.idle, Prim.start, Tracker.open0), (.open0, .byte, .sent), (.sent, .ack, .open1),
      (.open1, .byte, .sent), (.open1, .stop, .idle)]

/-- R142, `START`: its word, its events and levels, its one refusal, and the edges of its corner cases (from an idle
bus the only edge while `CLK = 1` is the fall of `DIO`; from both lines low the rise of `DIO` comes first). -/
def Obligations.StartSendsTheStartCondition : Prop :=
  decode 0x000#12 = .ok .start ∧
  (∀ (s : State) (f : Option Tracker), s.halt = false → s.rst = none → trackNext s.framing .start = some f →
    exec .start s = .next { s with
      framing := f
      clk := true
      dio := false
      trace := s.trace ++ [.clk true, .dio true, .waitUs s.cfg.tStartUs, .dio false] }) ∧
  (∀ s : State, s.halt = false → s.rst ≠ some 0 → trackNext s.framing .start = none →
    exec .start s = .refused .framing) ∧
  (∀ c : Config, dioMovesWhileHigh true true (symS c) = [false] ∧ dioMovesWhileHigh false false (symS c) = [true, false])

/-- R143, `STOP`: its word, its events and levels, its one refusal. -/
def Obligations.StopSendsTheStopCondition : Prop :=
  decode 0x100#12 = .ok .stop ∧
  (∀ (s : State) (f : Option Tracker), s.halt = false → s.rst = none → trackNext s.framing .stop = some f →
    exec .stop s = .next { s with
      framing := f
      clk := true
      dio := true
      trace := s.trace ++ [.clk false, .waitUs s.cfg.tStopUs, .dio false, .waitUs s.cfg.tStopUs, .clk true,
        .waitUs s.cfg.tStopUs, .dio true] }) ∧
  (∀ s : State, s.halt = false → s.rst ≠ some 0 → trackNext s.framing .stop = none →
    exec .stop s = .refused .framing)

/-- R144, `WRBYTE b`, for every byte: its word, forty events, one cell for each bit from the least significant up; `CLK`
ends high, `DIO` at bit 7, `SHR` and `BITC` at 0. -/
def Obligations.WriteByteSendsBitsLowestFirst : Prop :=
  ∀ b : Byte,
    decode (0x200#12 ||| b.zeroExtend 12) = .ok (.wrbyte b) ∧
    (∀ (s : State) (f : Option Tracker), s.halt = false → s.rst = none → trackNext s.framing .byte = some f →
      exec (.wrbyte b) s = .next { s with
        framing := f
        clk := true
        dio := b.getLsbD 7
        shr := 0
        bitc := 0
        trace := s.trace ++ (List.range 8).flatMap fun i =>
          [.clk false, .dio (b.getLsbD i), .waitUs s.cfg.tBitLoUs, .clk true, .waitUs s.cfg.tBitHiUs] }) ∧
    (∀ s : State, s.halt = false → s.rst ≠ some 0 → trackNext s.framing .byte = none →
      exec (.wrbyte b) s = .refused .framing)

/-- R145 and R146, `WAITACK`: its word and events; `DIO` is not written and nothing is read; its one refusal. -/
def Obligations.WaitAckClocksTheSlotUnread : Prop :=
  decode 0x300#12 = .ok .waitack ∧
  (∀ (s : State) (f : Option Tracker), s.halt = false → s.rst = none → trackNext s.framing .ack = some f →
    exec .waitack s = .next { s with
      framing := f
      clk := false
      trace := s.trace ++ [.clk false, .waitUs s.cfg.tAckLoUs, .clk true, .waitUs s.cfg.tAckHiUs, .clk false] }) ∧
  (∀ s : State, s.halt = false → s.rst ≠ some 0 → trackNext s.framing .ack = none →
    exec .waitack s = .refused .framing)

/-- R148 and R149, `WRDATACMD b` and `WRDISPCMD b`: their words, one single-byte transaction of 56 events (format T1),
the bus idle after it; where a checker is attached and not in `IDLE`, both are refused. -/
def Obligations.CommandsSendOneByteTransactions : Prop :=
  ∀ b : Byte,
    decode (0x400#12 ||| b.zeroExtend 12) = .ok (.wrdatacmd b) ∧
    decode (0x500#12 ||| b.zeroExtend 12) = .ok (.wrdispcmd b) ∧
    (∀ i ∈ [Instr.wrdatacmd b, Instr.wrdispcmd b], ∀ s : State, s.halt = false →
      (s.rst = none → (s.framing = none ∨ s.framing = some .idle) →
        exec i s = .next { s with
          clk := true
          dio := true
          shr := 0
          bitc := 0
          trace := s.trace ++ (symS s.cfg ++ symByte s.cfg b ++ symA s.cfg ++ symP s.cfg) }) ∧
      (s.rst ≠ some 0 → s.framing ≠ none → s.framing ≠ some .idle → exec i s = .refused .framing)) ∧
    (∀ c : Config, (symS c ++ symByte c b ++ symA c ++ symP c).length = 56)

/-- R116, first two rows: a command is its expansion, the four primitives issued one after another. -/
def Obligations.CommandsEqualTheirExpansion : Prop :=
  ∀ (b : Byte) (s : State), s.halt = false → s.rst = none → (s.framing = none ∨ s.framing = some .idle) →
    ∃ t, exec (.wrdatacmd b) s = .next t ∧ exec (.wrdispcmd b) s = .next t ∧
      runList [.start, .wrbyte b, .waitack, .stop] s = some t

/-- R150, `WRFRAME`: its words. Outside its preconditions and before any event: a digit count outside
[`N_MIN`, `N_MAX`] or above 6 is refused whatever the digits are; a digit of 12 or more among the first `n` halts with
`GlyphRange`; a framing checker that is not in `IDLE` refuses. Else it sends three transactions, with the overlaid glyphs
of the first `n` digits in ascending order in the second. -/
def Obligations.WriteFrameSendsThreeTransactions : Prop :=
  (∀ (k : Bool) (n : BitVec 3), 4 ≤ n.toNat → n.toNat ≤ 6 →
    decode (0x600#12 ||| ((BitVec.ofBool k).zeroExtend 12 <<< 3) ||| n.zeroExtend 12) = .ok (.wrframe k n)) ∧
  ∀ (s : State) (k : Bool) (n : BitVec 3), s.halt = false → s.rst ≠ some 0 →
    (n.toNat < s.cfg.nMin ∨ s.cfg.nMax < n.toNat ∨ 6 < n.toNat → exec (.wrframe k n) s = .refused .frameLength) ∧
    (s.cfg.nMin ≤ n.toNat → n.toNat ≤ s.cfg.nMax → n.toNat ≤ 6 →
      (s.framing = none ∨ s.framing = some .idle → (∃ d ∈ s.bus.fDig.toList.take n.toNat, 12 ≤ d.toNat) →
        exec (.wrframe k n) s = .next { s with halt := true, hcause := .glyphRange }) ∧
      ((∀ d ∈ s.bus.fDig.toList.take n.toNat, d.toNat < 12) →
        (s.framing ≠ none → s.framing ≠ some .idle → exec (.wrframe k n) s = .refused .framing) ∧
        (s.framing = none ∨ s.framing = some .idle → s.rst = none →
          exec (.wrframe k n) s = .next { s with
            clk := true
            dio := true
            shr := 0
            bitc := 0
            idx := n
            trace := s.trace ++
              (transaction s.cfg [s.bus.fDcmd] ++
                transaction s.cfg (s.bus.fAddr :: (s.bus.fDig.toList.take n.toNat).map fun d =>
                  if k then s.cfg.glyph.toList.getD d.toNat 0 ||| s.cfg.glyph[11]
                  else s.cfg.glyph.toList.getD d.toNat 0) ++
                transaction s.cfg [s.bus.fDisp]) })))

/-- R116, third row: `WRFRAME` is its expansion, the operations issued one after another; only the scratch register
`IDX` tells them apart. -/
def Obligations.WriteFrameEqualsItsExpansion : Prop :=
  ∀ (s : State) (k : Bool) (n : BitVec 3), s.halt = false → s.rst = none →
    (s.framing = none ∨ s.framing = some .idle) →
    s.cfg.nMin ≤ n.toNat → n.toNat ≤ s.cfg.nMax → n.toNat ≤ 6 →
    (∀ d ∈ s.bus.fDig.toList.take n.toNat, d.toNat < 12) →
    ∃ t, runList (frameExpansion s.cfg k s.bus.fDcmd s.bus.fAddr (s.bus.fDig.toList.take n.toNat) s.bus.fDisp) s = some t ∧
      exec (.wrframe k n) s = .next { t with idx := n }

/-- R151: with and without the overlay, for any digits, byte i of the second trace is byte i of the first OR `GLYPH[11]`,
and the two traces have the same events but for the `DIO` writes of the glyph bytes. -/
def Obligations.OverlayChangesOnlyGlyphBits : Prop :=
  ∀ (c : Config) (dcmd addr disp : Byte) (ds : List Digit),
    ds.map (wireGlyph c true) = (ds.map (wireGlyph c false)).map (fun g => g ||| c.glyph[11]) ∧
    (∀ k, frameEvents c k dcmd addr ds disp =
      (transaction c [dcmd] ++ symS c ++ symByte c addr ++ symA c) ++
        ds.flatMap (fun d => symByte c (wireGlyph c k d) ++ symA c) ++ (symP c ++ transaction c [disp])) ∧
    (∀ b b' : Byte, List.Forall₂ (fun e e' => e = e' ∨ (e.isDio = true ∧ e'.isDio = true)) (symByte c b) (symByte c b'))

/-- R92, R93, R95: the number of events of a transaction of `m` bytes and of a frame of `n` digits. -/
def Obligations.WireFormatEventCounts : Prop :=
  ∀ (c : Config) (k : Bool) (dcmd addr disp : Byte) (ds : List Digit) (bs : List Byte),
    (transaction c bs).length = 45 * bs.length + 11 ∧
    (frameEvents c k dcmd addr ds disp).length = 45 * ds.length + 168

/-- R97: the minimum durations, as sums of the waits, at the default parameters. -/
def Obligations.WireFormatMinimumDurations : Prop :=
  ∀ (k : Bool) (b dcmd addr disp : Byte) (ds : List Digit) (v : Bool),
    leastDuration (symS Config.standard) = 2 ∧ leastDuration (symBit Config.standard v) = 6 ∧
    leastDuration (symByte Config.standard b) = 48 ∧ leastDuration (symA Config.standard) = 7 ∧
    leastDuration (symP Config.standard) = 6 ∧ leastDuration (transaction Config.standard [b]) = 63 ∧
    leastDuration (transaction Config.standard (addr :: ds.map (wireGlyph Config.standard k))) = 55 * ds.length + 63 ∧
    leastDuration (frameEvents Config.standard k dcmd addr ds disp) = 55 * ds.length + 189

/-- R96: what any sequence of transactions of any bytes does to an idle bus. (a) The bus ends idle, and the first two
events of `S` repeat the idle levels; (b) `DIO` moves while `CLK` is high exactly twice in each transaction, down and then
up; (c) and (d) in each, `CLK` rises nine times a byte and once more, and a receiver that looks at `DIO` at each rise sees
the eight bits, lowest first, then bit 7 again in the acknowledge slot, and 0 in the stop condition; no event of `A`
writes `DIO`; (e) and (f) the levels after `S` and after a byte and its `A`, and the redundant first event after an
`A`. -/
def Obligations.TransactionOnTheWires : Prop :=
  ∀ (c : Config) (ts : List (List Byte)) (b : Byte) (v : Bool) (x : Bool × Bool),
    levelsAfter (true, true) (ts.flatMap (transaction c)) = (true, true) ∧
    dioMovesWhileHigh true true (ts.flatMap (transaction c)) = ts.flatMap (fun _ => [false, true]) ∧
    risingSamples true true (ts.flatMap (transaction c)) =
      ts.flatMap (fun bs => bs.flatMap (fun y => bitsOf y ++ [y.getLsbD 7]) ++ [false]) ∧
    levelsAfter x (symS c) = (true, false) ∧ levelsAfter x (symByte c b ++ symA c) = (false, b.getLsbD 7) ∧
    (symBit c v).head? = some (.clk false) ∧ (symP c).head? = some (.clk false) ∧
    (symS c).take 2 = [.clk true, .dio true] ∧ ∀ e ∈ symA c, e.isDio = false

/-! ### The digit encoder (40_digit_encoder.md) -/

/-- R131, R132, R104(c), `TODIGITS`: its word. In its range the four digits of `A_SEC` stand on `Q_DIG`, each in its own
range, and give the seconds back; nothing else changes. From 6000 seconds on it halts with `DigitRange` and writes
nothing else. -/
def Obligations.ToDigitsEncodesTheSeconds : Prop :=
  decode 0x700#12 = .ok .todigits ∧
  ∀ s : State, s.halt = false → s.rst ≠ some 0 →
    (s.bus.aSec % 2 ^ s.cfg.wSec < 6000 →
      ∃ q : Digits, exec .todigits s = .next { s with qDig := q } ∧
        q.d0.toNat = s.bus.aSec % 2 ^ s.cfg.wSec / 60 / 10 ∧ q.d1.toNat = s.bus.aSec % 2 ^ s.cfg.wSec / 60 % 10 ∧
        q.d2.toNat = s.bus.aSec % 2 ^ s.cfg.wSec % 60 / 10 ∧ q.d3.toNat = s.bus.aSec % 2 ^ s.cfg.wSec % 60 % 10 ∧
        q.d0.toNat ≤ 9 ∧ q.d1.toNat ≤ 9 ∧ q.d2.toNat ≤ 5 ∧ q.d3.toNat ≤ 9 ∧
        s.bus.aSec % 2 ^ s.cfg.wSec = 60 * (10 * q.d0.toNat + q.d1.toNat) + 10 * q.d2.toNat + q.d3.toNat) ∧
    (6000 ≤ s.bus.aSec % 2 ^ s.cfg.wSec →
      exec .todigits s = .next { s with halt := true, hcause := .digitRange })

/-- R133: "For all `s` in [0, 1499]: `toDigits(s) == (s/60/10, s/60%10, s%60/10, s%60%10)`", and on [0, 5999]. -/
def Obligations.DigitsOfSeconds : Prop :=
  ∀ e : Nat, e ≤ 5999 →
    (toDigits e).d0.toNat = e / 60 / 10 ∧ (toDigits e).d1.toNat = e / 60 % 10 ∧
    (toDigits e).d2.toNat = e % 60 / 10 ∧ (toDigits e).d3.toNat = e % 60 % 10

/-! ### The debounce filter (42_debounce.md) -/

/-- R171, R172, `DBPOLL u`: its words; from the sample `r` of the pin, taken first, and the sample `t` of the tick: `RAW[u]`
is `r`, and `CHG[u]` is `t` where `r` differs from `RAW[u]`. Where the window has elapsed, on the strict comparison of the
modular difference, `STB[u]` is `r`. A commit of the pressed level, which differs from `STB[u]`, runs the action of the
edge event inside the poll (R177), `CTRLEDGE` for instance 0 and `FUNCEDGE` for instance 1; without it everything else is
as the environment leaves it. -/
def Obligations.PollFollowsTheTransitionRule : Prop :=
  decode 0x800#12 = .ok (.dbpoll .ctrl) ∧ decode 0x801#12 = .ok (.dbpoll .func) ∧
  ∀ (s : State) (u : Button), s.halt = false → s.NoReset →
    let r := s.envMove.btn u
    let t := s.envMove.envMove.tick
    let chg := if r = (s.db u).raw then (s.db u).chg else t
    let elapsed := s.cfg.dbThreshold < (t + (2 ^ s.cfg.wTick - chg % 2 ^ s.cfg.wTick)) % 2 ^ s.cfg.wTick
    (¬(elapsed ∧ r ≠ (s.db u).stb ∧ r = s.cfg.active) →
      exec (.dbpoll u) s = .next (s.envMove.envMove.setDb u ⟨r, if elapsed then r else (s.db u).stb, chg⟩)) ∧
    (elapsed → r ≠ (s.db u).stb → r = s.cfg.active →
      exec (.dbpoll u) s =
        exec (match u with
          | .ctrl => .ctrledge
          | .func => .funcedge) (s.envMove.envMove.setDb u ⟨r, r, chg⟩))

/-- R173: a change seen in step 1 cannot commit in the same poll, and a commit needs a tick more than `DB_THRESHOLD`
after the poll that saw the change. -/
def Obligations.ChangeCannotCommitAtOnce : Prop :=
  ∀ (c : Config) (d : Debounce) (r : Bool) (t : Nat),
    (r ≠ d.raw → ((d.poll c r t).1.stb = d.stb ∧ (d.poll c r t).2 = false ∧ (d.poll c r t).1.chg = t)) ∧
    ((d.poll c r t).1.stb ≠ d.stb → c.dbThreshold < subMod c.wTick t d.chg)

/-- R180, R175: a press seen first at tick `t0` and held at every later poll fires at the first poll more than
`DB_THRESHOLD` ticks after `t0`, at no earlier poll and at no later one. -/
def Obligations.SustainedPressFiresExactlyOnce : Prop :=
  ∀ (c : Config) (d : Debounce) (t0 : Nat) (ts : List Nat), d.raw = !c.active → d.stb = !c.active →
    (pollAll c d ((c.active, t0) :: ts.map fun t => (c.active, t))).2 =
      false :: onlyFirst (ts.map fun t => decide (c.dbThreshold < subMod c.wTick t t0))

/-- R176: a press seen first at `t0`, held for polls none of which is more than `DB_THRESHOLD` ticks after it, and then
seen released at every poll, fires nothing and leaves the committed level as it was. -/
def Obligations.ShortPressFiresNothing : Prop :=
  ∀ (c : Config) (d : Debounce) (t0 : Nat) (ts rs : List Nat), d.raw = !c.active → d.stb = !c.active →
    (∀ t ∈ ts, subMod c.wTick t t0 ≤ c.dbThreshold) →
    (pollAll c d ((c.active, t0) :: (ts.map fun t => (c.active, t)) ++ rs.map fun t => (!c.active, t))).1.stb = !c.active ∧
    ∀ b ∈ (pollAll c d ((c.active, t0) :: (ts.map fun t => (c.active, t)) ++ rs.map fun t => (!c.active, t))).2, b = false

/-- R42: the change tick a debounce instance has while `RAW[u]` equals `STB[u]`, as at reset, is unobservable: whatever the
polls sample, the events and the committed level do not depend on it. -/
def Obligations.ResetChangeTickIsUnobservable : Prop :=
  ∀ (c : Config) (v : Bool) (x y : Nat) (ps : List (Bool × Nat)),
    (pollAll c ⟨v, v, x⟩ ps).2 = (pollAll c ⟨v, v, y⟩ ps).2 ∧
    (pollAll c ⟨v, v, x⟩ ps).1.stb = (pollAll c ⟨v, v, y⟩ ps).1.stb ∧
    (pollAll c ⟨v, v, x⟩ ps).1.raw = (pollAll c ⟨v, v, y⟩ ps).1.raw

/-! ### The session (43_session.md) -/

/-- R190, R242, R243, `CTRLEDGE`: its word; `RUN` toggles and `TMR_RUN` follows it. Where the platform reports no failure,
`SEC` is cleared and the session is back in Focus with `CYC = 0`; the events are `TMR_RUN=v, SEC_CLR`. Where it reports
one, the operation halts, with `TimerStart` if the edge started the session and `TimerStop` if it stopped it, after the
event `TMR_RUN=v` and without the four reset writes. Everything else is as the environment leaves it. -/
def Obligations.ControlEdgeResetsTheSession : Prop :=
  decode 0x900#12 = .ok .ctrledge ∧
  ∀ s : State, s.halt = false → s.NoReset →
    let a := State.envMove { s with run := !s.run }
    let b := State.envMove { a with tmrRun := !s.run, trace := s.trace ++ [.tmrRun (!s.run)] }
    (b.tmrFail = false →
      exec .ctrledge s = .next { b.envMove with
        sec := 0
        mode := .focus
        tgt := s.cfg.tFocus
        cyc := 0
        trace := s.trace ++ [.tmrRun (!s.run), .secClr] }) ∧
    (b.tmrFail = true →
      exec .ctrledge s = .next { b with halt := true, hcause := if s.run then .timerStop else .timerStart })

/-- R186: the transition table, in the default variant; the increment does not overflow where the counter is in its
range. -/
def Obligations.TransitionTable : Prop :=
  ∀ (c : Config) (n : Nat), c.cycVariant = .atFocusExit →
    nextMode c .focus n = ⟨.shortBreak, (n + 1) % 2 ^ c.wCyc, 1⟩ ∧
    (c.Valid → n < c.cycLimit → nextMode c .focus n = ⟨.shortBreak, n + 1, 1⟩) ∧
    (n < c.cycLimit → nextMode c .shortBreak n = ⟨.focus, n, 2⟩) ∧
    (c.cycLimit ≤ n → nextMode c .shortBreak n = ⟨.longBreak, 0, 2⟩) ∧
    nextMode c .longBreak n = ⟨.focus, n, 3⟩

/-- R191, `FUNCEDGE`: its word; the rollover's mode and counter, `SEC` cleared, `TGT` the new mode's duration; the one
event is `SEC_CLR`; `RUN` is neither read nor written. -/
def Obligations.FunctionEdgeRollsOverSilently : Prop :=
  decode 0xA00#12 = .ok .funcedge ∧
  ∀ s : State, s.halt = false → s.NoReset →
    exec .funcedge s = .next { s.envMove with
      mode := (nextMode s.cfg s.mode s.cyc).mode
      cyc := (nextMode s.cfg s.mode s.cyc).cyc
      sec := 0
      tgt := match (nextMode s.cfg s.mode s.cyc).mode with
        | .focus => s.cfg.tFocus
        | .shortBreak => s.cfg.tShort
        | .longBreak => s.cfg.tLong
      trace := s.trace ++ [.secClr] }

/-- R192 and R195, `AUTOROLL`: its word; the state `FUNCEDGE` would leave, with the buzzer silent, and after `SEC_CLR`
the cue of 1, 2 or 3 pulses of the mode that was left. -/
def Obligations.AutoRollPlaysTheCueOfTheModeLeft : Prop :=
  decode 0xB00#12 = .ok .autoroll ∧
  ∀ s : State, s.halt = false → s.NoReset →
    ∃ t, exec .funcedge s = .next t ∧
      exec .autoroll s = .next { t with
        buz := false
        trace := s.trace ++ [.secClr] ++ cueEvents s.cfg (match s.mode with
          | .focus => 1
          | .shortBreak => 2
          | .longBreak => 3) }

/-- R194, `CUE p`: the events of one, two and three pulses, the buzzer silent after each, nothing else written; and the
refusal of `p = 0`. -/
def Obligations.CuePulsesTheBuzzer : Prop :=
  ∀ s : State, s.halt = false →
    let on := Event.buz true
    let off := Event.buz false
    let w := Event.waitMs s.cfg.tBuzOnMs
    let z := Event.waitMs s.cfg.tBuzOffMs
    (s.rst = none →
      exec (.cue 1) s = .next { s with buz := false, trace := s.trace ++ [on, w, off] } ∧
      exec (.cue 2) s = .next { s with buz := false, trace := s.trace ++ [on, w, off, z, on, w, off, z] } ∧
      exec (.cue 3) s = .next { s with
        buz := false
        trace := s.trace ++ [on, w, off, z, on, w, off, z, on, w, off, z] }) ∧
    (s.rst ≠ some 0 → exec (.cue 0) s = .refused .illegalWord)

/-- R188: the mode sequence for every `CYC_LIMIT`: before the long break, `2 k` rollovers from a fresh session lead to
Focus with `CYC = k` and one more to a ShortBreak with `CYC = k + 1`; the `2 * CYC_LIMIT`-th leads to the LongBreak with
`CYC = 0` and the next one to Focus with `CYC = 0`, where the cycle begins again. -/
def Obligations.LongBreakAfterCycLimitCycles : Prop :=
  ∀ c : Config, c.Valid → c.cycVariant = .atFocusExit →
    (∀ k, k < c.cycLimit →
      rollMany c (2 * k) (.focus, 0) = (.focus, k) ∧ rollMany c (2 * k + 1) (.focus, 0) = (.shortBreak, k + 1)) ∧
    rollMany c (2 * c.cycLimit) (.focus, 0) = (.longBreak, 0) ∧
    rollMany c (2 * c.cycLimit + 1) (.focus, 0) = (.focus, 0)

/-- R189: the table of the other variant of the cycle counter, with the run of the counter over ten rollovers at the
defaults; and the two variants are observationally equal. The relation of R189 holds at reset, and from a state of variant
A in its range and the state of variant B beside it every step answers alike, with the relation and the range kept: the
same modes, targets, outputs and traces for ever. -/
def Obligations.CycleVariantsAreEquivalent : Prop :=
  (∀ (c : Config) (n : Nat), c.cycVariant = .atShortExit → n < 2 ^ c.wCyc - 1 →
    nextMode c .focus n = ⟨.shortBreak, n, 1⟩ ∧
    (n + 1 < c.cycLimit → nextMode c .shortBreak n = ⟨.focus, n + 1, 2⟩) ∧
    (c.cycLimit ≤ n + 1 → nextMode c .shortBreak n = ⟨.longBreak, 0, 2⟩) ∧
    nextMode c .longBreak n = ⟨.focus, 0, 3⟩) ∧
  (List.range 11).map (fun k => (rollMany { Config.standard with cycVariant := .atShortExit } k (.focus, 0)).2) =
    [0, 0, 1, 1, 2, 2, 3, 3, 4, 4, 0] ∧
  (∀ c : Config, (State.resetWith c).twinB = State.resetWith { c with cycVariant := .atShortExit }) ∧
  ∀ s : State, s.cfg.Valid → s.cfg.cycVariant = .atFocusExit → cycInRange s.cfg s.mode s.cyc →
    (∀ t, step s = .next t → step s.twinB = .next t.twinB ∧ t.cfg = s.cfg ∧ cycInRange t.cfg t.mode t.cyc) ∧
    (∀ r, step s = .refused r → step s.twinB = .refused r)

/-! ### The refresh coordinator and the scheduler (44_refresh_scheduler.md) -/

/-- R217, `REFRESH`, from its one sample of `SEC`: its word. Where the sample equals `LAST` it writes nothing at all (R218).
A changed sample that is not the target and is 6000 or more halts with `DigitRange` before `DIG`, `BLINK` and `LAST` are
written and before any event (R244). A changed sample below that is drawn: digits, `BLINK`, one frame with the overlay the
new `BLINK` selects, `LAST` (for `N_BUF = 4`, the rule's four digit lines). A changed sample that equals the target rolls
over first, as `AUTOROLL` does from there (R193), and then 00:00 is drawn and 0 stored as the last rendered second
(R219). -/
def Obligations.RefreshFollowsTheSecond : Prop :=
  decode 0xC00#12 = .ok .refresh ∧
  ∀ s : State, s.halt = false → s.NoReset →
    (s.envMove.sec = s.last → exec .refresh s = .next s.envMove) ∧
    (s.envMove.sec ≠ s.last → s.envMove.sec ≠ s.tgt → 6000 ≤ s.envMove.sec →
      exec .refresh s = .next { s.envMove with halt := true, hcause := .digitRange }) ∧
    (s.cfg.nBuf = 4 → FrameFits s.cfg → (s.framing = none ∨ s.framing = some .idle) → s.envMove.sec ≠ s.last →
      (s.envMove.sec ≠ s.tgt → s.envMove.sec < 6000 →
        let q := toDigits s.envMove.sec
        exec .refresh s = .next { s.envMove with
          dig := q
          blink := !s.blink
          clk := true
          dio := true
          shr := 0
          bitc := 0
          idx := 4
          trace := s.trace ++ frameEvents s.cfg (!s.blink) s.cfg.cmdData s.cfg.cmdAddr
            [q.d0, q.d1, q.d2, q.d3] s.cfg.cmdDisp
          last := s.envMove.sec }) ∧
      (s.envMove.sec = s.tgt →
        ∃ t, exec .autoroll s.envMove = .next t ∧
          exec .refresh s = .next { t with
            dig := ⟨0, 0, 0, 0⟩
            blink := !s.blink
            clk := true
            dio := true
            shr := 0
            bitc := 0
            idx := 4
            trace := t.trace ++ frameEvents s.cfg (!s.blink) s.cfg.cmdData s.cfg.cmdAddr
              [0, 0, 0, 0] s.cfg.cmdDisp
            last := 0 }))

/-- R221, `ITER`: its word; the control poll, the function poll and the refresh run in this order, each from the state
the one before left, with `PH` stepping 0, 1, 2, 0; a halt in one ends the iteration there, with `PH` at its phase
(assumption log 9 for an `ITER` issued at another phase). -/
def Obligations.IterationRunsThreePhasesInOrder : Prop :=
  decode 0xE00#12 = .ok .iter ∧
  ∀ s : State, s.halt = false → s.NoReset → FrameFits s.cfg → (s.framing = none ∨ s.framing = some .idle) →
    ∃ t1, exec (.dbpoll .ctrl) { s with ph := .ctrlPoll } = .next t1 ∧
      (t1.halt = true → exec .iter s = .next t1 ∧ t1.ph = .ctrlPoll) ∧
      (t1.halt = false →
        ∃ t2 t3, exec (.dbpoll .func) { t1 with ph := .funcPoll } = .next t2 ∧ t2.halt = false ∧
          exec .refresh { t2 with ph := .refresh } = .next t3 ∧
          (t3.halt = true → exec .iter s = .next t3 ∧ t3.ph = .refresh) ∧
          (t3.halt = false → exec .iter s = .next { t3 with ph := .ctrlPoll }))

/-- R221, the iteration in which nothing moves outside, both pins are sampled at their committed and raw level and `SEC` is
unchanged (95_test_vectors.md V58): nothing is written but `PH`, which is back at 0 (assumption log 9 for an `ITER` issued
at another phase). `QuietIterationEmitsNothing` is about every iteration in which nothing fires. -/
def Obligations.IdleIterationChangesNothing : Prop :=
  ∀ s : State, s.halt = false → s.rst = none → s.env = [] →
    s.dbCtrl.raw = s.btnCtrl → s.dbCtrl.stb = s.btnCtrl → s.dbFunc.raw = s.btnFunc → s.dbFunc.stb = s.btnFunc →
    s.sec = s.last → exec .iter s = .next { s with ph := .ctrlPoll }

/-- R221, every iteration in which neither poll fires and the sample of `SEC` equals `LAST`, whatever else moves outside:
it emits no event, and all it writes is `RAW[u]` and `CHG[u]`, and `STB[u]` where a poll commits the level that is not
`ACTIVE`, which fires nothing (42_debounce.md R174). -/
def Obligations.QuietIterationEmitsNothing : Prop :=
  ∀ s : State, s.halt = false → s.NoReset → s.ph = .ctrlPoll →
    let s2 := s.envMove.envMove
    let s4 := s2.envMove.envMove
    let p0 := s.dbCtrl.poll s.cfg s.envMove.btnCtrl s2.tick
    let p1 := s.dbFunc.poll s.cfg s2.envMove.btnFunc s4.tick
    p0.2 = false → p1.2 = false → s4.envMove.sec = s.last →
      exec .iter s = .next { s4.envMove with dbCtrl := p0.1, dbFunc := p1.1 } ∧ s4.envMove.trace = s.trace ∧
      (p0.1.stb = s.dbCtrl.stb ∨ p0.1.stb = !s.cfg.active) ∧ (p1.1.stb = s.dbFunc.stb ∨ p1.1.stb = !s.cfg.active)

/-- R222: from phase 0 and with no issued word, one `ITER` is three steps of the sequencer. -/
def Obligations.IterationIsThreeSequencerSteps : Prop :=
  ∀ s t1 t2 t3 : State, s.issued = [] → s.ph = .ctrlPoll → s.halt = false → s.NoReset →
    step s = .next t1 → step t1 = .next t2 → step t2 = .next t3 → t3.halt = false → exec .iter s = .next t3

/-- R249 (1): both buttons commit a press in one iteration, nothing else moving outside: `CTRLEDGE` runs first and
`FUNCEDGE` second, so the session is in ShortBreak with one cycle counted, `RUN` is toggled and `SEC` is 0. -/
def Obligations.ControlButtonComesBeforeFunctionButton : Prop :=
  ∀ s : State, s.cfg.Valid → s.cfg.cycVariant = .atFocusExit → s.halt = false → s.rst = none → s.env = [] →
    s.tmrFail = false →
    (∀ u, s.btn u = s.cfg.active ∧ (s.db u).raw = s.cfg.active ∧ (s.db u).stb = !s.cfg.active ∧
      s.cfg.dbThreshold < subMod s.cfg.wTick s.tick (s.db u).chg) →
    FrameFits s.cfg → (s.framing = none ∨ s.framing = some .idle) →
    ∃ t, exec .iter s = .next t ∧ t.halt = false ∧ t.mode = .shortBreak ∧ t.cyc = 1 ∧ t.tgt = s.cfg.tShort ∧
      t.run = !s.run ∧ t.tmrRun = !s.run ∧ t.sec = 0 ∧ t.last = 0 ∧ ∀ u, (t.db u).stb = s.cfg.active

/-- R192's worked example and 95_test_vectors.md X6, for every duration of the Focus: from a fresh running Focus with
the buttons not pressed, one `SECTICK` before each refresh's sample, `n` iterations short of the target leave the mode,
show `n` seconds and have sent exactly the frames of the seconds 1 to `n`, with the colon changing from frame to frame.
The iteration at the target makes exactly one rollover into ShortBreak: `SEC_CLR`, the cue of one pulse, the frame of
00:00; after it the elapsed time is 0. (With `N_BUF` above 4 the digits past the fourth are those of assumption log 12.) -/
def Obligations.FocusRollsOverAfterItsDuration : Prop :=
  ∀ s : State, SessionOk s → FrameFits s.cfg → s.cfg.cycVariant = .atFocusExit →
    s.halt = false → s.rst = none → (s.framing = none ∨ s.framing = some .idle) →
    s.mode = .focus → s.cyc = 0 → s.run = true → s.sec = 0 → s.last = 0 →
    (∀ u, s.btn u = !s.cfg.active ∧ (s.db u).raw = !s.cfg.active ∧ (s.db u).stb = !s.cfg.active) →
    (∀ n, n < s.cfg.tFocus → ∃ t, runSeconds n s = some t ∧ t.mode = .focus ∧ t.sec = n ∧ t.last = n ∧
      t.trace = s.trace ++ s.framesOfSeconds n ∧ (n ≠ 0 → t.dig = toDigits n)) ∧
    ∃ t, runSeconds s.cfg.tFocus s = some t ∧ t.mode = .shortBreak ∧ t.cyc = 1 ∧ t.sec = 0 ∧ t.last = 0 ∧
      t.tgt = s.cfg.tShort ∧ t.buz = false ∧
      t.trace = s.trace ++ s.framesOfSeconds (s.cfg.tFocus - 1) ++
        [.secClr, .buz true, .waitMs s.cfg.tBuzOnMs, .buz false] ++ s.frameOfSecond 0 (s.blinkAfter s.cfg.tFocus)

/-! ### State, environment, halt, reset -/

/-- R40: the session's invariant is kept by every step, whatever word is issued and whatever the environment does. -/
def Obligations.SessionInvariantIsKept : Prop :=
  ∀ s t : State, SessionOk s → step s = .next t → SessionOk t

/-- The invariant of R40 holds right after reset, for every configuration that meets R10. -/
def Obligations.SessionInvariantHoldsAtReset : Prop :=
  (∀ c : Config, c.Valid → SessionOk (State.resetWith c)) ∧ SessionOk State.reset

/-- R20: every counter stays within its width; no step writes the configuration (R39). -/
def Obligations.WidthsAreKept : Prop :=
  ∀ s t : State, step s = .next t → t.cfg = s.cfg ∧ (s.cfg.Valid → WidthsOk s → WidthsOk t)

/-- R40 (f), R246: a step of the sequencer leaves the bus idle, also where it halts. -/
def Obligations.SequencerLeavesTheBusIdle : Prop :=
  ∀ s t : State, s.issued = [] → s.LinesIdle → step s = .next t → t.LinesIdle

/-- R96 (a) and (f): with a framing checker attached, the levels of the two lines are those its state says, after every
step of any issued word (that `State` holds the checker is the model's choice, assumption log 6). -/
def Obligations.LinesFollowTheFramingChecker : Prop :=
  ∀ s t : State, s.LinesTracked → step s = .next t → t.LinesTracked

/-- R185, R190: `MODE`, `TGT`, `CYC` and `RUN` change in no operation but the session's own and those that call them:
the seven operations of the serial engine, `TODIGITS` and `CUE` leave them, and the debounce and refresh registers,
alone, also where they halt, unless a reset comes. -/
def Obligations.WireOperationsLeaveTheSessionAlone : Prop :=
  ∀ (i : Instr) (s t : State), s.rst = none → s.halt = false → exec i s = .next t →
    (match i with
      | .start | .stop | .wrbyte _ | .waitack | .wrdatacmd _ | .wrdispcmd _ | .wrframe _ _ | .todigits | .cue _ => True
      | _ => False) →
    t.mode = s.mode ∧ t.tgt = s.tgt ∧ t.cyc = s.cyc ∧ t.run = s.run ∧ t.tmrRun = s.tmrRun ∧ t.sec = s.sec ∧
    t.tick = s.tick ∧ t.dbCtrl = s.dbCtrl ∧ t.dbFunc = s.dbFunc ∧ t.dig = s.dig ∧ t.blink = s.blink ∧
    t.last = s.last ∧ t.ph = s.ph ∧ t.env = s.env ∧ t.issued = s.issued

/-- R33 to R36, R70: what a move of each agent outside PTC does, and that it changes nothing else: `MSTICK` counts `TICK`
modulo its width; `SECTICK` counts `SEC` modulo its width while it is enabled and does nothing while it is not; the button
environment sets one pin; the platform sets `TMR_FAIL` or raises `RST` (of two arrivals of a reset the earlier counts, and
that an arrival is a number of lines is the model's choice, assumption log 4). -/
def Obligations.EnvironmentMovesOnlyItsOwn : Prop :=
  ∀ s : State,
    s.move .msTick = { s with tick := (s.tick + 1) % 2 ^ s.cfg.wTick } ∧
    ((s.cfg.secTickGated = false ∨ s.tmrRun = true) →
      s.move .secTick = { s with sec := (s.sec + 1) % 2 ^ s.cfg.wSec }) ∧
    (s.cfg.secTickGated = true → s.tmrRun = false → s.move .secTick = s) ∧
    (∀ v, s.move (.btn .ctrl v) = { s with btnCtrl := v } ∧ s.move (.btn .func v) = { s with btnFunc := v } ∧
      s.move (.tmrFail v) = { s with tmrFail := v }) ∧
    (∀ k, (s.rst = none → s.move (.rst k) = { s with rst := some k }) ∧
      ∀ j, s.rst = some j → s.move (.rst k) = { s with rst := some (min j k) })

/-- R246: the halted state is absorbing. No operation runs, no register, port or trace changes; only the environment
moves (that the model answers a next state there is its choice, assumption log 8). -/
def Obligations.HaltedStateIsAbsorbing : Prop :=
  ∀ (i : Instr) (s : State), s.halt = true → s.NoReset →
    exec i s = .next s.envMove ∧ (s.issued = [] → step s = .next s.envMove) ∧ s.envMove.trace = s.trace ∧
    s.envMove.halt = true ∧ s.envMove.hcause = s.hcause

/-- R246, R253: reset is the only exit from the halted state: a step that leaves it ends the run. -/
def Obligations.OnlyResetLeavesTheHaltedState : Prop :=
  ∀ s t : State, s.halt = true → step s = .next t → t.halt = false → t.pastRuns = s.pastRuns ++ [s.trace] ∧ t.trace = []

/-- R41, R265: what a reset that is due leaves, whatever operation is next: every PTC register and output port at its
reset value, `SEC` cleared, the trace of the run ended and a new one begun, `TICK`, the inputs and what is still to come
untouched. (That the buses and the issued words stay is the model's choice, assumption log 4.) -/
def Obligations.DueResetComesFirst : Prop :=
  ∀ (i : Instr) (s : State), s.rst = some 0 →
    exec i s = .next { s with
      dbCtrl := ⟨!s.cfg.active, !s.cfg.active, 0⟩
      dbFunc := ⟨!s.cfg.active, !s.cfg.active, 0⟩
      mode := .focus
      tgt := s.cfg.tFocus
      cyc := 0
      run := false
      dig := ⟨0, 0, 0, 0⟩
      blink := false
      last := 0
      halt := false
      hcause := .noCause
      ph := .ctrlPoll
      shr := 0
      bitc := 0
      idx := 0
      clk := true
      dio := true
      buz := false
      tmrRun := false
      sec := 0
      rst := none
      framing := s.framing.map fun _ => .idle
      trace := []
      pastRuns := s.pastRuns ++ [s.trace] }

/-- R267: a reset that arrives in the middle of an operation of the serial engine or of a cue ends it after exactly the
events that came before it (at its very beginning where `k = 0`), and the state is the reset state; one that is further
away than the operation is long only comes nearer by its events. (`rst := some k` says how many events away the reset is,
which is the model's way of writing its arrival: assumption log 4.) -/
def Obligations.ResetCutsAnOperationShort : Prop :=
  ∀ (i : Instr) (s t : State), s.rst = none → s.halt = false → exec i s = .next t → t.halt = false →
    (match i with
      | .start | .stop | .wrbyte _ | .waitack | .wrdatacmd _ | .wrdispcmd _ | .wrframe _ _ | .cue _ => True
      | _ => False) →
    ∃ es : List Event, t.trace = s.trace ++ es ∧
      ∀ k, exec i { s with rst := some k } =
        if k < es.length then .next { s.restart with pastRuns := s.pastRuns ++ [s.trace ++ es.take k] }
        else if k = 0 then .next s.restart
        else .next { t with rst := some (k - es.length) }

/-- R41: the values right after reset, for every configuration, and the defaults of R8 and R9 in `State.reset`. -/
def Obligations.ResetValues : Prop :=
  (∀ c : Config,
    let s := State.resetWith c
    s.cfg = c ∧ s.mode = .focus ∧ s.sec = 0 ∧ s.tgt = c.tFocus ∧ s.cyc = 0 ∧ s.run = false ∧ s.tmrRun = false ∧
    (∀ u, s.db u = ⟨!c.active, !c.active, 0⟩) ∧ s.dig = ⟨0, 0, 0, 0⟩ ∧ s.blink = false ∧ s.last = 0 ∧
    s.halt = false ∧ s.hcause = .noCause ∧ s.ph = .ctrlPoll ∧ s.clk = true ∧ s.dio = true ∧ s.buz = false ∧
    s.shr = 0 ∧ s.bitc = 0 ∧ s.idx = 0 ∧ s.trace = []) ∧
  State.reset.tgt = 1500 ∧ State.reset.cfg.tShort = 300 ∧ State.reset.cfg.tLong = 900 ∧
  State.reset.cfg.cycLimit = 5 ∧ State.reset.cfg.dbThreshold = 20

/-- R43, R218: nothing is drawn between reset and the first second. Right after reset, whatever the agents outside PTC will
do short of a `SECTICK` and a reset, `SEC` and `LAST` are both 0; and every step of the sequencer from such a state, with
whatever buttons, ticks and timer failures, keeps them at 0 and drives neither `CLK` nor `DIO`, whatever `TGT` is. -/
def Obligations.NothingIsDrawnAfterReset : Prop :=
  (∀ (c : Config) (ms : List (List EnvMove)), (∀ m ∈ ms.flatten, m.isRst = false ∧ m.isSecTick = false) →
    BeforeFirstSecond { State.resetWith c with env := ms }) ∧
  ∀ s t : State, BeforeFirstSecond s → step s = .next t → BeforeFirstSecond t ∧
    ∃ es : List Event, t.trace = s.trace ++ es ∧ ∀ e ∈ es, e.isClk = false ∧ e.isDio = false

/-- R262: what cannot fail. With `TMR_FAIL` held at 0 and `SEC` unable to reach 6000, a step of the sequencer that has
not halted does not halt. -/
def Obligations.SoundTimerNeverHalts : Prop :=
  ∀ s t : State, s.issued = [] → s.halt = false → s.TimerSound → s.secReach < 6000 → step s = .next t → t.halt = false
end

