-- ==== Sys2Proof/Laws/State.lean ====
section
/-! SUPPORT. The lemmas of the named updates of `State`: one per field, so that no later proof unfolds an update. -/

namespace Sys2Proof.Machine

open Sys2Proof

/-! ### `State.log` -/

@[simp] theorem State.log_cfg (s : State) (e : Event) : (s.log e).cfg = s.cfg := rfl
@[simp] theorem State.log_dbCtrl (s : State) (e : Event) : (s.log e).dbCtrl = s.dbCtrl := rfl
@[simp] theorem State.log_dbFunc (s : State) (e : Event) : (s.log e).dbFunc = s.dbFunc := rfl
@[simp] theorem State.log_mode (s : State) (e : Event) : (s.log e).mode = s.mode := rfl
@[simp] theorem State.log_tgt (s : State) (e : Event) : (s.log e).tgt = s.tgt := rfl
@[simp] theorem State.log_cyc (s : State) (e : Event) : (s.log e).cyc = s.cyc := rfl
@[simp] theorem State.log_run (s : State) (e : Event) : (s.log e).run = s.run := rfl
@[simp] theorem State.log_dig (s : State) (e : Event) : (s.log e).dig = s.dig := rfl
@[simp] theorem State.log_blink (s : State) (e : Event) : (s.log e).blink = s.blink := rfl
@[simp] theorem State.log_last (s : State) (e : Event) : (s.log e).last = s.last := rfl
@[simp] theorem State.log_halt (s : State) (e : Event) : (s.log e).halt = s.halt := rfl
@[simp] theorem State.log_hcause (s : State) (e : Event) : (s.log e).hcause = s.hcause := rfl
@[simp] theorem State.log_ph (s : State) (e : Event) : (s.log e).ph = s.ph := rfl
@[simp] theorem State.log_shr (s : State) (e : Event) : (s.log e).shr = s.shr := rfl
@[simp] theorem State.log_bitc (s : State) (e : Event) : (s.log e).bitc = s.bitc := rfl
@[simp] theorem State.log_idx (s : State) (e : Event) : (s.log e).idx = s.idx := rfl
@[simp] theorem State.log_clk (s : State) (e : Event) : (s.log e).clk = s.clk := rfl
@[simp] theorem State.log_dio (s : State) (e : Event) : (s.log e).dio = s.dio := rfl
@[simp] theorem State.log_buz (s : State) (e : Event) : (s.log e).buz = s.buz := rfl
@[simp] theorem State.log_tmrRun (s : State) (e : Event) : (s.log e).tmrRun = s.tmrRun := rfl
@[simp] theorem State.log_tick (s : State) (e : Event) : (s.log e).tick = s.tick := rfl
@[simp] theorem State.log_sec (s : State) (e : Event) : (s.log e).sec = s.sec := rfl
@[simp] theorem State.log_btnCtrl (s : State) (e : Event) : (s.log e).btnCtrl = s.btnCtrl := rfl
@[simp] theorem State.log_btnFunc (s : State) (e : Event) : (s.log e).btnFunc = s.btnFunc := rfl
@[simp] theorem State.log_tmrFail (s : State) (e : Event) : (s.log e).tmrFail = s.tmrFail := rfl
@[simp] theorem State.log_rst (s : State) (e : Event) : (s.log e).rst = s.rst := rfl
@[simp] theorem State.log_env (s : State) (e : Event) : (s.log e).env = s.env := rfl
@[simp] theorem State.log_issued (s : State) (e : Event) : (s.log e).issued = s.issued := rfl
@[simp] theorem State.log_bus (s : State) (e : Event) : (s.log e).bus = s.bus := rfl
@[simp] theorem State.log_qDig (s : State) (e : Event) : (s.log e).qDig = s.qDig := rfl
@[simp] theorem State.log_framing (s : State) (e : Event) : (s.log e).framing = s.framing := rfl
@[simp] theorem State.log_trace (s : State) (e : Event) : (s.log e).trace = s.trace ++ [e] := rfl
@[simp] theorem State.log_pastRuns (s : State) (e : Event) : (s.log e).pastRuns = s.pastRuns := rfl

/-! ### `State.setDb` and `State.db` -/

@[simp] theorem State.db_setDb (s : State) (u : Button) (d : Debounce) : (s.setDb u d).db u = d := by
  cases u <;> rfl

theorem State.db_setDb_of_ne (s : State) {u v : Button} (d : Debounce) (h : v ≠ u) :
    (s.setDb u d).db v = s.db v := by
  cases u <;> cases v <;> first | rfl | exact absurd rfl h

@[simp] theorem State.setDb_setDb (s : State) (u : Button) (d d' : Debounce) :
    (s.setDb u d).setDb u d' = s.setDb u d' := by
  cases u <;> rfl

@[simp] theorem State.db_log (s : State) (e : Event) (u : Button) : (s.log e).db u = s.db u := by
  cases u <;> rfl

@[simp] theorem State.setDb_cfg (s : State) (u : Button) (d : Debounce) : (s.setDb u d).cfg = s.cfg := by cases u <;> rfl
@[simp] theorem State.setDb_mode (s : State) (u : Button) (d : Debounce) : (s.setDb u d).mode = s.mode := by cases u <;> rfl
@[simp] theorem State.setDb_tgt (s : State) (u : Button) (d : Debounce) : (s.setDb u d).tgt = s.tgt := by cases u <;> rfl
@[simp] theorem State.setDb_cyc (s : State) (u : Button) (d : Debounce) : (s.setDb u d).cyc = s.cyc := by cases u <;> rfl
@[simp] theorem State.setDb_run (s : State) (u : Button) (d : Debounce) : (s.setDb u d).run = s.run := by cases u <;> rfl
@[simp] theorem State.setDb_dig (s : State) (u : Button) (d : Debounce) : (s.setDb u d).dig = s.dig := by cases u <;> rfl
@[simp] theorem State.setDb_blink (s : State) (u : Button) (d : Debounce) : (s.setDb u d).blink = s.blink := by cases u <;> rfl
@[simp] theorem State.setDb_last (s : State) (u : Button) (d : Debounce) : (s.setDb u d).last = s.last := by cases u <;> rfl
@[simp] theorem State.setDb_halt (s : State) (u : Button) (d : Debounce) : (s.setDb u d).halt = s.halt := by cases u <;> rfl
@[simp] theorem State.setDb_hcause (s : State) (u : Button) (d : Debounce) : (s.setDb u d).hcause = s.hcause := by cases u <;> rfl
@[simp] theorem State.setDb_ph (s : State) (u : Button) (d : Debounce) : (s.setDb u d).ph = s.ph := by cases u <;> rfl
@[simp] theorem State.setDb_shr (s : State) (u : Button) (d : Debounce) : (s.setDb u d).shr = s.shr := by cases u <;> rfl
@[simp] theorem State.setDb_bitc (s : State) (u : Button) (d : Debounce) : (s.setDb u d).bitc = s.bitc := by cases u <;> rfl
@[simp] theorem State.setDb_idx (s : State) (u : Button) (d : Debounce) : (s.setDb u d).idx = s.idx := by cases u <;> rfl
@[simp] theorem State.setDb_clk (s : State) (u : Button) (d : Debounce) : (s.setDb u d).clk = s.clk := by cases u <;> rfl
@[simp] theorem State.setDb_dio (s : State) (u : Button) (d : Debounce) : (s.setDb u d).dio = s.dio := by cases u <;> rfl
@[simp] theorem State.setDb_buz (s : State) (u : Button) (d : Debounce) : (s.setDb u d).buz = s.buz := by cases u <;> rfl
@[simp] theorem State.setDb_tmrRun (s : State) (u : Button) (d : Debounce) : (s.setDb u d).tmrRun = s.tmrRun := by cases u <;> rfl
@[simp] theorem State.setDb_tick (s : State) (u : Button) (d : Debounce) : (s.setDb u d).tick = s.tick := by cases u <;> rfl
@[simp] theorem State.setDb_sec (s : State) (u : Button) (d : Debounce) : (s.setDb u d).sec = s.sec := by cases u <;> rfl
@[simp] theorem State.setDb_btnCtrl (s : State) (u : Button) (d : Debounce) : (s.setDb u d).btnCtrl = s.btnCtrl := by cases u <;> rfl
@[simp] theorem State.setDb_btnFunc (s : State) (u : Button) (d : Debounce) : (s.setDb u d).btnFunc = s.btnFunc := by cases u <;> rfl
@[simp] theorem State.setDb_tmrFail (s : State) (u : Button) (d : Debounce) : (s.setDb u d).tmrFail = s.tmrFail := by cases u <;> rfl
@[simp] theorem State.setDb_rst (s : State) (u : Button) (d : Debounce) : (s.setDb u d).rst = s.rst := by cases u <;> rfl
@[simp] theorem State.setDb_env (s : State) (u : Button) (d : Debounce) : (s.setDb u d).env = s.env := by cases u <;> rfl
@[simp] theorem State.setDb_issued (s : State) (u : Button) (d : Debounce) : (s.setDb u d).issued = s.issued := by cases u <;> rfl
@[simp] theorem State.setDb_bus (s : State) (u : Button) (d : Debounce) : (s.setDb u d).bus = s.bus := by cases u <;> rfl
@[simp] theorem State.setDb_qDig (s : State) (u : Button) (d : Debounce) : (s.setDb u d).qDig = s.qDig := by cases u <;> rfl
@[simp] theorem State.setDb_framing (s : State) (u : Button) (d : Debounce) : (s.setDb u d).framing = s.framing := by cases u <;> rfl
@[simp] theorem State.setDb_trace (s : State) (u : Button) (d : Debounce) : (s.setDb u d).trace = s.trace := by cases u <;> rfl
@[simp] theorem State.setDb_pastRuns (s : State) (u : Button) (d : Debounce) : (s.setDb u d).pastRuns = s.pastRuns := by cases u <;> rfl

/-! ### `State.setBtn` and `State.btn` -/

@[simp] theorem State.btn_setBtn (s : State) (u : Button) (v : Bool) : (s.setBtn u v).btn u = v := by
  cases u <;> rfl

@[simp] theorem State.btn_setDb (s : State) (u v : Button) (d : Debounce) : (s.setDb u d).btn v = s.btn v := by
  cases u <;> cases v <;> rfl

@[simp] theorem State.setBtn_cfg (s : State) (u : Button) (v : Bool) : (s.setBtn u v).cfg = s.cfg := by cases u <;> rfl
@[simp] theorem State.setBtn_dbCtrl (s : State) (u : Button) (v : Bool) : (s.setBtn u v).dbCtrl = s.dbCtrl := by cases u <;> rfl
@[simp] theorem State.setBtn_dbFunc (s : State) (u : Button) (v : Bool) : (s.setBtn u v).dbFunc = s.dbFunc := by cases u <;> rfl
@[simp] theorem State.setBtn_mode (s : State) (u : Button) (v : Bool) : (s.setBtn u v).mode = s.mode := by cases u <;> rfl
@[simp] theorem State.setBtn_tgt (s : State) (u : Button) (v : Bool) : (s.setBtn u v).tgt = s.tgt := by cases u <;> rfl
@[simp] theorem State.setBtn_cyc (s : State) (u : Button) (v : Bool) : (s.setBtn u v).cyc = s.cyc := by cases u <;> rfl
@[simp] theorem State.setBtn_run (s : State) (u : Button) (v : Bool) : (s.setBtn u v).run = s.run := by cases u <;> rfl
@[simp] theorem State.setBtn_dig (s : State) (u : Button) (v : Bool) : (s.setBtn u v).dig = s.dig := by cases u <;> rfl
@[simp] theorem State.setBtn_blink (s : State) (u : Button) (v : Bool) : (s.setBtn u v).blink = s.blink := by cases u <;> rfl
@[simp] theorem State.setBtn_last (s : State) (u : Button) (v : Bool) : (s.setBtn u v).last = s.last := by cases u <;> rfl
@[simp] theorem State.setBtn_halt (s : State) (u : Button) (v : Bool) : (s.setBtn u v).halt = s.halt := by cases u <;> rfl
@[simp] theorem State.setBtn_hcause (s : State) (u : Button) (v : Bool) : (s.setBtn u v).hcause = s.hcause := by cases u <;> rfl
@[simp] theorem State.setBtn_ph (s : State) (u : Button) (v : Bool) : (s.setBtn u v).ph = s.ph := by cases u <;> rfl
@[simp] theorem State.setBtn_shr (s : State) (u : Button) (v : Bool) : (s.setBtn u v).shr = s.shr := by cases u <;> rfl
@[simp] theorem State.setBtn_bitc (s : State) (u : Button) (v : Bool) : (s.setBtn u v).bitc = s.bitc := by cases u <;> rfl
@[simp] theorem State.setBtn_idx (s : State) (u : Button) (v : Bool) : (s.setBtn u v).idx = s.idx := by cases u <;> rfl
@[simp] theorem State.setBtn_clk (s : State) (u : Button) (v : Bool) : (s.setBtn u v).clk = s.clk := by cases u <;> rfl
@[simp] theorem State.setBtn_dio (s : State) (u : Button) (v : Bool) : (s.setBtn u v).dio = s.dio := by cases u <;> rfl
@[simp] theorem State.setBtn_buz (s : State) (u : Button) (v : Bool) : (s.setBtn u v).buz = s.buz := by cases u <;> rfl
@[simp] theorem State.setBtn_tmrRun (s : State) (u : Button) (v : Bool) : (s.setBtn u v).tmrRun = s.tmrRun := by cases u <;> rfl
@[simp] theorem State.setBtn_tick (s : State) (u : Button) (v : Bool) : (s.setBtn u v).tick = s.tick := by cases u <;> rfl
@[simp] theorem State.setBtn_sec (s : State) (u : Button) (v : Bool) : (s.setBtn u v).sec = s.sec := by cases u <;> rfl
@[simp] theorem State.setBtn_tmrFail (s : State) (u : Button) (v : Bool) : (s.setBtn u v).tmrFail = s.tmrFail := by cases u <;> rfl
@[simp] theorem State.setBtn_rst (s : State) (u : Button) (v : Bool) : (s.setBtn u v).rst = s.rst := by cases u <;> rfl
@[simp] theorem State.setBtn_env (s : State) (u : Button) (v : Bool) : (s.setBtn u v).env = s.env := by cases u <;> rfl
@[simp] theorem State.setBtn_issued (s : State) (u : Button) (v : Bool) : (s.setBtn u v).issued = s.issued := by cases u <;> rfl
@[simp] theorem State.setBtn_bus (s : State) (u : Button) (v : Bool) : (s.setBtn u v).bus = s.bus := by cases u <;> rfl
@[simp] theorem State.setBtn_qDig (s : State) (u : Button) (v : Bool) : (s.setBtn u v).qDig = s.qDig := by cases u <;> rfl
@[simp] theorem State.setBtn_framing (s : State) (u : Button) (v : Bool) : (s.setBtn u v).framing = s.framing := by cases u <;> rfl
@[simp] theorem State.setBtn_trace (s : State) (u : Button) (v : Bool) : (s.setBtn u v).trace = s.trace := by cases u <;> rfl
@[simp] theorem State.setBtn_pastRuns (s : State) (u : Button) (v : Bool) : (s.setBtn u v).pastRuns = s.pastRuns := by cases u <;> rfl

/-! ### `State.accept` and `State.issueWord` -/

@[simp] theorem State.accept_cfg (s : State) (q : Issue) (rest : List Issue) : (s.accept q rest).cfg = s.cfg := rfl
@[simp] theorem State.accept_dbCtrl (s : State) (q : Issue) (rest : List Issue) : (s.accept q rest).dbCtrl = s.dbCtrl := rfl
@[simp] theorem State.accept_dbFunc (s : State) (q : Issue) (rest : List Issue) : (s.accept q rest).dbFunc = s.dbFunc := rfl
@[simp] theorem State.accept_mode (s : State) (q : Issue) (rest : List Issue) : (s.accept q rest).mode = s.mode := rfl
@[simp] theorem State.accept_tgt (s : State) (q : Issue) (rest : List Issue) : (s.accept q rest).tgt = s.tgt := rfl
@[simp] theorem State.accept_cyc (s : State) (q : Issue) (rest : List Issue) : (s.accept q rest).cyc = s.cyc := rfl
@[simp] theorem State.accept_run (s : State) (q : Issue) (rest : List Issue) : (s.accept q rest).run = s.run := rfl
@[simp] theorem State.accept_dig (s : State) (q : Issue) (rest : List Issue) : (s.accept q rest).dig = s.dig := rfl
@[simp] theorem State.accept_blink (s : State) (q : Issue) (rest : List Issue) : (s.accept q rest).blink = s.blink := rfl
@[simp] theorem State.accept_last (s : State) (q : Issue) (rest : List Issue) : (s.accept q rest).last = s.last := rfl
@[simp] theorem State.accept_halt (s : State) (q : Issue) (rest : List Issue) : (s.accept q rest).halt = s.halt := rfl
@[simp] theorem State.accept_hcause (s : State) (q : Issue) (rest : List Issue) : (s.accept q rest).hcause = s.hcause := rfl
@[simp] theorem State.accept_ph (s : State) (q : Issue) (rest : List Issue) : (s.accept q rest).ph = s.ph := rfl
@[simp] theorem State.accept_shr (s : State) (q : Issue) (rest : List Issue) : (s.accept q rest).shr = s.shr := rfl
@[simp] theorem State.accept_bitc (s : State) (q : Issue) (rest : List Issue) : (s.accept q rest).bitc = s.bitc := rfl
@[simp] theorem State.accept_idx (s : State) (q : Issue) (rest : List Issue) : (s.accept q rest).idx = s.idx := rfl
@[simp] theorem State.accept_clk (s : State) (q : Issue) (rest : List Issue) : (s.accept q rest).clk = s.clk := rfl
@[simp] theorem State.accept_dio (s : State) (q : Issue) (rest : List Issue) : (s.accept q rest).dio = s.dio := rfl
@[simp] theorem State.accept_buz (s : State) (q : Issue) (rest : List Issue) : (s.accept q rest).buz = s.buz := rfl
@[simp] theorem State.accept_tmrRun (s : State) (q : Issue) (rest : List Issue) : (s.accept q rest).tmrRun = s.tmrRun := rfl
@[simp] theorem State.accept_tick (s : State) (q : Issue) (rest : List Issue) : (s.accept q rest).tick = s.tick := rfl
@[simp] theorem State.accept_sec (s : State) (q : Issue) (rest : List Issue) : (s.accept q rest).sec = s.sec := rfl
@[simp] theorem State.accept_btnCtrl (s : State) (q : Issue) (rest : List Issue) : (s.accept q rest).btnCtrl = s.btnCtrl := rfl
@[simp] theorem State.accept_btnFunc (s : State) (q : Issue) (rest : List Issue) : (s.accept q rest).btnFunc = s.btnFunc := rfl
@[simp] theorem State.accept_tmrFail (s : State) (q : Issue) (rest : List Issue) : (s.accept q rest).tmrFail = s.tmrFail := rfl
@[simp] theorem State.accept_rst (s : State) (q : Issue) (rest : List Issue) : (s.accept q rest).rst = s.rst := rfl
@[simp] theorem State.accept_env (s : State) (q : Issue) (rest : List Issue) : (s.accept q rest).env = s.env := rfl
@[simp] theorem State.accept_issued (s : State) (q : Issue) (rest : List Issue) : (s.accept q rest).issued = rest := rfl
@[simp] theorem State.accept_bus (s : State) (q : Issue) (rest : List Issue) : (s.accept q rest).bus = q.bus := rfl
@[simp] theorem State.accept_qDig (s : State) (q : Issue) (rest : List Issue) : (s.accept q rest).qDig = s.qDig := rfl
@[simp] theorem State.accept_framing (s : State) (q : Issue) (rest : List Issue) : (s.accept q rest).framing = s.framing := rfl
@[simp] theorem State.accept_trace (s : State) (q : Issue) (rest : List Issue) : (s.accept q rest).trace = s.trace := rfl
@[simp] theorem State.accept_pastRuns (s : State) (q : Issue) (rest : List Issue) : (s.accept q rest).pastRuns = s.pastRuns := rfl

@[simp] theorem State.issueWord_cfg (s : State) (w : MicroWord) : (s.issueWord w).cfg = s.cfg := rfl
@[simp] theorem State.issueWord_dbCtrl (s : State) (w : MicroWord) : (s.issueWord w).dbCtrl = s.dbCtrl := rfl
@[simp] theorem State.issueWord_dbFunc (s : State) (w : MicroWord) : (s.issueWord w).dbFunc = s.dbFunc := rfl
@[simp] theorem State.issueWord_mode (s : State) (w : MicroWord) : (s.issueWord w).mode = s.mode := rfl
@[simp] theorem State.issueWord_tgt (s : State) (w : MicroWord) : (s.issueWord w).tgt = s.tgt := rfl
@[simp] theorem State.issueWord_cyc (s : State) (w : MicroWord) : (s.issueWord w).cyc = s.cyc := rfl
@[simp] theorem State.issueWord_run (s : State) (w : MicroWord) : (s.issueWord w).run = s.run := rfl
@[simp] theorem State.issueWord_dig (s : State) (w : MicroWord) : (s.issueWord w).dig = s.dig := rfl
@[simp] theorem State.issueWord_blink (s : State) (w : MicroWord) : (s.issueWord w).blink = s.blink := rfl
@[simp] theorem State.issueWord_last (s : State) (w : MicroWord) : (s.issueWord w).last = s.last := rfl
@[simp] theorem State.issueWord_halt (s : State) (w : MicroWord) : (s.issueWord w).halt = s.halt := rfl
@[simp] theorem State.issueWord_hcause (s : State) (w : MicroWord) : (s.issueWord w).hcause = s.hcause := rfl
@[simp] theorem State.issueWord_ph (s : State) (w : MicroWord) : (s.issueWord w).ph = s.ph := rfl
@[simp] theorem State.issueWord_shr (s : State) (w : MicroWord) : (s.issueWord w).shr = s.shr := rfl
@[simp] theorem State.issueWord_bitc (s : State) (w : MicroWord) : (s.issueWord w).bitc = s.bitc := rfl
@[simp] theorem State.issueWord_idx (s : State) (w : MicroWord) : (s.issueWord w).idx = s.idx := rfl
@[simp] theorem State.issueWord_clk (s : State) (w : MicroWord) : (s.issueWord w).clk = s.clk := rfl
@[simp] theorem State.issueWord_dio (s : State) (w : MicroWord) : (s.issueWord w).dio = s.dio := rfl
@[simp] theorem State.issueWord_buz (s : State) (w : MicroWord) : (s.issueWord w).buz = s.buz := rfl
@[simp] theorem State.issueWord_tmrRun (s : State) (w : MicroWord) : (s.issueWord w).tmrRun = s.tmrRun := rfl
@[simp] theorem State.issueWord_tick (s : State) (w : MicroWord) : (s.issueWord w).tick = s.tick := rfl
@[simp] theorem State.issueWord_sec (s : State) (w : MicroWord) : (s.issueWord w).sec = s.sec := rfl
@[simp] theorem State.issueWord_btnCtrl (s : State) (w : MicroWord) : (s.issueWord w).btnCtrl = s.btnCtrl := rfl
@[simp] theorem State.issueWord_btnFunc (s : State) (w : MicroWord) : (s.issueWord w).btnFunc = s.btnFunc := rfl
@[simp] theorem State.issueWord_tmrFail (s : State) (w : MicroWord) : (s.issueWord w).tmrFail = s.tmrFail := rfl
@[simp] theorem State.issueWord_rst (s : State) (w : MicroWord) : (s.issueWord w).rst = s.rst := rfl
@[simp] theorem State.issueWord_env (s : State) (w : MicroWord) : (s.issueWord w).env = s.env := rfl
@[simp] theorem State.issueWord_issued (s : State) (w : MicroWord) : (s.issueWord w).issued = ⟨w, s.bus⟩ :: s.issued := rfl
@[simp] theorem State.issueWord_bus (s : State) (w : MicroWord) : (s.issueWord w).bus = s.bus := rfl
@[simp] theorem State.issueWord_qDig (s : State) (w : MicroWord) : (s.issueWord w).qDig = s.qDig := rfl
@[simp] theorem State.issueWord_framing (s : State) (w : MicroWord) : (s.issueWord w).framing = s.framing := rfl
@[simp] theorem State.issueWord_trace (s : State) (w : MicroWord) : (s.issueWord w).trace = s.trace := rfl
@[simp] theorem State.issueWord_pastRuns (s : State) (w : MicroWord) : (s.issueWord w).pastRuns = s.pastRuns := rfl

@[simp] theorem State.accept_issueWord (s : State) (w : MicroWord) :
    (s.issueWord w).accept ⟨w, s.bus⟩ s.issued = s := rfl

/-! ### `State.restart` -/

@[simp] theorem State.restart_cfg (s : State) : s.restart.cfg = s.cfg := rfl
@[simp] theorem State.restart_dbCtrl (s : State) : s.restart.dbCtrl = ⟨!s.cfg.active, !s.cfg.active, 0⟩ := rfl
@[simp] theorem State.restart_dbFunc (s : State) : s.restart.dbFunc = ⟨!s.cfg.active, !s.cfg.active, 0⟩ := rfl
@[simp] theorem State.restart_mode (s : State) : s.restart.mode = .focus := rfl
@[simp] theorem State.restart_tgt (s : State) : s.restart.tgt = s.cfg.tFocus := rfl
@[simp] theorem State.restart_cyc (s : State) : s.restart.cyc = 0 := rfl
@[simp] theorem State.restart_run (s : State) : s.restart.run = false := rfl
@[simp] theorem State.restart_dig (s : State) : s.restart.dig = ⟨0, 0, 0, 0⟩ := rfl
@[simp] theorem State.restart_blink (s : State) : s.restart.blink = false := rfl
@[simp] theorem State.restart_last (s : State) : s.restart.last = 0 := rfl
@[simp] theorem State.restart_halt (s : State) : s.restart.halt = false := rfl
@[simp] theorem State.restart_hcause (s : State) : s.restart.hcause = .noCause := rfl
@[simp] theorem State.restart_ph (s : State) : s.restart.ph = .ctrlPoll := rfl
@[simp] theorem State.restart_shr (s : State) : s.restart.shr = 0 := rfl
@[simp] theorem State.restart_bitc (s : State) : s.restart.bitc = 0 := rfl
@[simp] theorem State.restart_idx (s : State) : s.restart.idx = 0 := rfl
@[simp] theorem State.restart_clk (s : State) : s.restart.clk = true := rfl
@[simp] theorem State.restart_dio (s : State) : s.restart.dio = true := rfl
@[simp] theorem State.restart_buz (s : State) : s.restart.buz = false := rfl
@[simp] theorem State.restart_tmrRun (s : State) : s.restart.tmrRun = false := rfl
@[simp] theorem State.restart_tick (s : State) : s.restart.tick = s.tick := rfl
@[simp] theorem State.restart_sec (s : State) : s.restart.sec = 0 := rfl
@[simp] theorem State.restart_btnCtrl (s : State) : s.restart.btnCtrl = s.btnCtrl := rfl
@[simp] theorem State.restart_btnFunc (s : State) : s.restart.btnFunc = s.btnFunc := rfl
@[simp] theorem State.restart_tmrFail (s : State) : s.restart.tmrFail = s.tmrFail := rfl
@[simp] theorem State.restart_rst (s : State) : s.restart.rst = none := rfl
@[simp] theorem State.restart_env (s : State) : s.restart.env = s.env := rfl
@[simp] theorem State.restart_issued (s : State) : s.restart.issued = s.issued := rfl
@[simp] theorem State.restart_bus (s : State) : s.restart.bus = s.bus := rfl
@[simp] theorem State.restart_qDig (s : State) : s.restart.qDig = s.qDig := rfl
@[simp] theorem State.restart_framing (s : State) : s.restart.framing = s.framing.map fun _ => .idle := rfl
@[simp] theorem State.restart_trace (s : State) : s.restart.trace = [] := rfl
@[simp] theorem State.restart_pastRuns (s : State) : s.restart.pastRuns = s.pastRuns ++ [s.trace] := rfl

/-! ### The environment: `State.move` and `State.envMove` change only what the environment owns -/

@[simp] theorem State.move_cfg (s : State) (m : EnvMove) : (s.move m).cfg = s.cfg := by
  rcases m with _ | _ | ⟨u, v⟩ | _ | _ <;> try rfl
  · simp only [State.move]; split <;> rfl
  · cases u <;> rfl
@[simp] theorem State.move_dbCtrl (s : State) (m : EnvMove) : (s.move m).dbCtrl = s.dbCtrl := by
  rcases m with _ | _ | ⟨u, v⟩ | _ | _ <;> try rfl
  · simp only [State.move]; split <;> rfl
  · cases u <;> rfl
@[simp] theorem State.move_dbFunc (s : State) (m : EnvMove) : (s.move m).dbFunc = s.dbFunc := by
  rcases m with _ | _ | ⟨u, v⟩ | _ | _ <;> try rfl
  · simp only [State.move]; split <;> rfl
  · cases u <;> rfl
@[simp] theorem State.move_mode (s : State) (m : EnvMove) : (s.move m).mode = s.mode := by
  rcases m with _ | _ | ⟨u, v⟩ | _ | _ <;> try rfl
  · simp only [State.move]; split <;> rfl
  · cases u <;> rfl
@[simp] theorem State.move_tgt (s : State) (m : EnvMove) : (s.move m).tgt = s.tgt := by
  rcases m with _ | _ | ⟨u, v⟩ | _ | _ <;> try rfl
  · simp only [State.move]; split <;> rfl
  · cases u <;> rfl
@[simp] theorem State.move_cyc (s : State) (m : EnvMove) : (s.move m).cyc = s.cyc := by
  rcases m with _ | _ | ⟨u, v⟩ | _ | _ <;> try rfl
  · simp only [State.move]; split <;> rfl
  · cases u <;> rfl
@[simp] theorem State.move_run (s : State) (m : EnvMove) : (s.move m).run = s.run := by
  rcases m with _ | _ | ⟨u, v⟩ | _ | _ <;> try rfl
  · simp only [State.move]; split <;> rfl
  · cases u <;> rfl
@[simp] theorem State.move_dig (s : State) (m : EnvMove) : (s.move m).dig = s.dig := by
  rcases m with _ | _ | ⟨u, v⟩ | _ | _ <;> try rfl
  · simp only [State.move]; split <;> rfl
  · cases u <;> rfl
@[simp] theorem State.move_blink (s : State) (m : EnvMove) : (s.move m).blink = s.blink := by
  rcases m with _ | _ | ⟨u, v⟩ | _ | _ <;> try rfl
  · simp only [State.move]; split <;> rfl
  · cases u <;> rfl
@[simp] theorem State.move_last (s : State) (m : EnvMove) : (s.move m).last = s.last := by
  rcases m with _ | _ | ⟨u, v⟩ | _ | _ <;> try rfl
  · simp only [State.move]; split <;> rfl
  · cases u <;> rfl
@[simp] theorem State.move_halt (s : State) (m : EnvMove) : (s.move m).halt = s.halt := by
  rcases m with _ | _ | ⟨u, v⟩ | _ | _ <;> try rfl
  · simp only [State.move]; split <;> rfl
  · cases u <;> rfl
@[simp] theorem State.move_hcause (s : State) (m : EnvMove) : (s.move m).hcause = s.hcause := by
  rcases m with _ | _ | ⟨u, v⟩ | _ | _ <;> try rfl
  · simp only [State.move]; split <;> rfl
  · cases u <;> rfl
@[simp] theorem State.move_ph (s : State) (m : EnvMove) : (s.move m).ph = s.ph := by
  rcases m with _ | _ | ⟨u, v⟩ | _ | _ <;> try rfl
  · simp only [State.move]; split <;> rfl
  · cases u <;> rfl
@[simp] theorem State.move_shr (s : State) (m : EnvMove) : (s.move m).shr = s.shr := by
  rcases m with _ | _ | ⟨u, v⟩ | _ | _ <;> try rfl
  · simp only [State.move]; split <;> rfl
  · cases u <;> rfl
@[simp] theorem State.move_bitc (s : State) (m : EnvMove) : (s.move m).bitc = s.bitc := by
  rcases m with _ | _ | ⟨u, v⟩ | _ | _ <;> try rfl
  · simp only [State.move]; split <;> rfl
  · cases u <;> rfl
@[simp] theorem State.move_idx (s : State) (m : EnvMove) : (s.move m).idx = s.idx := by
  rcases m with _ | _ | ⟨u, v⟩ | _ | _ <;> try rfl
  · simp only [State.move]; split <;> rfl
  · cases u <;> rfl
@[simp] theorem State.move_clk (s : State) (m : EnvMove) : (s.move m).clk = s.clk := by
  rcases m with _ | _ | ⟨u, v⟩ | _ | _ <;> try rfl
  · simp only [State.move]; split <;> rfl
  · cases u <;> rfl
@[simp] theorem State.move_dio (s : State) (m : EnvMove) : (s.move m).dio = s.dio := by
  rcases m with _ | _ | ⟨u, v⟩ | _ | _ <;> try rfl
  · simp only [State.move]; split <;> rfl
  · cases u <;> rfl
@[simp] theorem State.move_buz (s : State) (m : EnvMove) : (s.move m).buz = s.buz := by
  rcases m with _ | _ | ⟨u, v⟩ | _ | _ <;> try rfl
  · simp only [State.move]; split <;> rfl
  · cases u <;> rfl
@[simp] theorem State.move_tmrRun (s : State) (m : EnvMove) : (s.move m).tmrRun = s.tmrRun := by
  rcases m with _ | _ | ⟨u, v⟩ | _ | _ <;> try rfl
  · simp only [State.move]; split <;> rfl
  · cases u <;> rfl
@[simp] theorem State.move_env (s : State) (m : EnvMove) : (s.move m).env = s.env := by
  rcases m with _ | _ | ⟨u, v⟩ | _ | _ <;> try rfl
  · simp only [State.move]; split <;> rfl
  · cases u <;> rfl
@[simp] theorem State.move_issued (s : State) (m : EnvMove) : (s.move m).issued = s.issued := by
  rcases m with _ | _ | ⟨u, v⟩ | _ | _ <;> try rfl
  · simp only [State.move]; split <;> rfl
  · cases u <;> rfl
@[simp] theorem State.move_bus (s : State) (m : EnvMove) : (s.move m).bus = s.bus := by
  rcases m with _ | _ | ⟨u, v⟩ | _ | _ <;> try rfl
  · simp only [State.move]; split <;> rfl
  · cases u <;> rfl
@[simp] theorem State.move_qDig (s : State) (m : EnvMove) : (s.move m).qDig = s.qDig := by
  rcases m with _ | _ | ⟨u, v⟩ | _ | _ <;> try rfl
  · simp only [State.move]; split <;> rfl
  · cases u <;> rfl
@[simp] theorem State.move_framing (s : State) (m : EnvMove) : (s.move m).framing = s.framing := by
  rcases m with _ | _ | ⟨u, v⟩ | _ | _ <;> try rfl
  · simp only [State.move]; split <;> rfl
  · cases u <;> rfl
@[simp] theorem State.move_trace (s : State) (m : EnvMove) : (s.move m).trace = s.trace := by
  rcases m with _ | _ | ⟨u, v⟩ | _ | _ <;> try rfl
  · simp only [State.move]; split <;> rfl
  · cases u <;> rfl
@[simp] theorem State.move_pastRuns (s : State) (m : EnvMove) : (s.move m).pastRuns = s.pastRuns := by
  rcases m with _ | _ | ⟨u, v⟩ | _ | _ <;> try rfl
  · simp only [State.move]; split <;> rfl
  · cases u <;> rfl

theorem State.foldl_move_eq {α : Type} (f : State → α) (h : ∀ s m, f (s.move m) = f s) (ms : List EnvMove) (s : State) :
    f (ms.foldl State.move s) = f s := by
  induction ms generalizing s with
  | nil => rfl
  | cons m ms ih => rw [List.foldl_cons, ih, h]

/-- What a field that no move changes is after the moves that fall before a line. -/
theorem State.envMove_eq {α : Type} (f : State → α) (h : ∀ s m, f (s.move m) = f s)
    (he : ∀ s rest, f { s with env := rest } = f s) (s : State) : f s.envMove = f s := by
  unfold State.envMove
  split
  · rfl
  · rw [State.foldl_move_eq f h, he]

@[simp] theorem State.envMove_cfg (s : State) : s.envMove.cfg = s.cfg := State.envMove_eq State.cfg State.move_cfg (fun _ _ => rfl) s
@[simp] theorem State.envMove_dbCtrl (s : State) : s.envMove.dbCtrl = s.dbCtrl := State.envMove_eq State.dbCtrl State.move_dbCtrl (fun _ _ => rfl) s
@[simp] theorem State.envMove_dbFunc (s : State) : s.envMove.dbFunc = s.dbFunc := State.envMove_eq State.dbFunc State.move_dbFunc (fun _ _ => rfl) s
@[simp] theorem State.envMove_mode (s : State) : s.envMove.mode = s.mode := State.envMove_eq State.mode State.move_mode (fun _ _ => rfl) s
@[simp] theorem State.envMove_tgt (s : State) : s.envMove.tgt = s.tgt := State.envMove_eq State.tgt State.move_tgt (fun _ _ => rfl) s
@[simp] theorem State.envMove_cyc (s : State) : s.envMove.cyc = s.cyc := State.envMove_eq State.cyc State.move_cyc (fun _ _ => rfl) s
@[simp] theorem State.envMove_run (s : State) : s.envMove.run = s.run := State.envMove_eq State.run State.move_run (fun _ _ => rfl) s
@[simp] theorem State.envMove_dig (s : State) : s.envMove.dig = s.dig := State.envMove_eq State.dig State.move_dig (fun _ _ => rfl) s
@[simp] theorem State.envMove_blink (s : State) : s.envMove.blink = s.blink := State.envMove_eq State.blink State.move_blink (fun _ _ => rfl) s
@[simp] theorem State.envMove_last (s : State) : s.envMove.last = s.last := State.envMove_eq State.last State.move_last (fun _ _ => rfl) s
@[simp] theorem State.envMove_halt (s : State) : s.envMove.halt = s.halt := State.envMove_eq State.halt State.move_halt (fun _ _ => rfl) s
@[simp] theorem State.envMove_hcause (s : State) : s.envMove.hcause = s.hcause := State.envMove_eq State.hcause State.move_hcause (fun _ _ => rfl) s
@[simp] theorem State.envMove_ph (s : State) : s.envMove.ph = s.ph := State.envMove_eq State.ph State.move_ph (fun _ _ => rfl) s
@[simp] theorem State.envMove_shr (s : State) : s.envMove.shr = s.shr := State.envMove_eq State.shr State.move_shr (fun _ _ => rfl) s
@[simp] theorem State.envMove_bitc (s : State) : s.envMove.bitc = s.bitc := State.envMove_eq State.bitc State.move_bitc (fun _ _ => rfl) s
@[simp] theorem State.envMove_idx (s : State) : s.envMove.idx = s.idx := State.envMove_eq State.idx State.move_idx (fun _ _ => rfl) s
@[simp] theorem State.envMove_clk (s : State) : s.envMove.clk = s.clk := State.envMove_eq State.clk State.move_clk (fun _ _ => rfl) s
@[simp] theorem State.envMove_dio (s : State) : s.envMove.dio = s.dio := State.envMove_eq State.dio State.move_dio (fun _ _ => rfl) s
@[simp] theorem State.envMove_buz (s : State) : s.envMove.buz = s.buz := State.envMove_eq State.buz State.move_buz (fun _ _ => rfl) s
@[simp] theorem State.envMove_tmrRun (s : State) : s.envMove.tmrRun = s.tmrRun := State.envMove_eq State.tmrRun State.move_tmrRun (fun _ _ => rfl) s
@[simp] theorem State.envMove_issued (s : State) : s.envMove.issued = s.issued := State.envMove_eq State.issued State.move_issued (fun _ _ => rfl) s
@[simp] theorem State.envMove_bus (s : State) : s.envMove.bus = s.bus := State.envMove_eq State.bus State.move_bus (fun _ _ => rfl) s
@[simp] theorem State.envMove_qDig (s : State) : s.envMove.qDig = s.qDig := State.envMove_eq State.qDig State.move_qDig (fun _ _ => rfl) s
@[simp] theorem State.envMove_framing (s : State) : s.envMove.framing = s.framing := State.envMove_eq State.framing State.move_framing (fun _ _ => rfl) s
@[simp] theorem State.envMove_trace (s : State) : s.envMove.trace = s.trace := State.envMove_eq State.trace State.move_trace (fun _ _ => rfl) s
@[simp] theorem State.envMove_pastRuns (s : State) : s.envMove.pastRuns = s.pastRuns := State.envMove_eq State.pastRuns State.move_pastRuns (fun _ _ => rfl) s

@[simp] theorem State.envMove_db (s : State) (u : Button) : s.envMove.db u = s.db u := by
  cases u
  · exact s.envMove_dbCtrl
  · exact s.envMove_dbFunc

@[simp] theorem State.envMove_env (s : State) : s.envMove.env = s.env.tail := by
  cases h : s.env with
  | nil => simp [State.envMove, h]
  | cons ms rest =>
    simp only [State.envMove, h, List.tail_cons]
    exact State.foldl_move_eq State.env State.move_env ms { s with env := rest }

/-- An environment with nothing left to do does nothing. -/
@[simp] theorem State.envMove_of_env_nil (s : State) (h : s.env = []) : s.envMove = s := by
  simp [State.envMove, h]

end Sys2Proof.Machine
end

