-- ==== Sys2Proof/Laws/Ops.lean ====
section
/-! SUPPORT. What the shared operations of Machine/Ops.lean can do, said once for each. -/

namespace Sys2Proof.Machine

open Sys2Proof

/-! ### Running lines -/

@[simp] theorem Flow.andThen_ok (s : State) (g : Op) : (Flow.ok s).andThen g = g s := rfl
@[simp] theorem Flow.andThen_ended (s : State) (g : Op) : (Flow.ended s).andThen g = .ended s := rfl
@[simp] theorem Flow.andThen_refused (r : Refusal) (g : Op) : (Flow.refused r).andThen g = .refused r := rfl

theorem Flow.andThen_assoc (f : Flow) (g h : Op) :
    (f.andThen g).andThen h = f.andThen fun s => (g s).andThen h := by
  cases f <;> rfl

@[simp] theorem Flow.andThen_okOp (f : Flow) : f.andThen (fun s => .ok s) = f := by cases f <;> rfl

@[simp] theorem prog_nil (s : State) : prog [] s = .ok s := rfl
@[simp] theorem prog_cons (o : Op) (os : List Op) (s : State) : prog (o :: os) s = (o s).andThen (prog os) := rfl

theorem prog_append (os ps : List Op) (s : State) : prog (os ++ ps) s = (prog os s).andThen (prog ps) := by
  induction os generalizing s with
  | nil => rfl
  | cons o os ih =>
    rw [List.cons_append, prog_cons, prog_cons, Flow.andThen_assoc]
    congr 1; funext t; exact ih t

@[simp] theorem Flow.andThen_prog_nil (f : Flow) : f.andThen (prog []) = f := by cases f <;> rfl

@[simp] theorem prog_singleton (o : Op) : prog [o] = o := by funext s; simp

@[simp] theorem update_apply (f : State → State) (s : State) : update f s = .ok (f s) := rfl

@[simp] theorem Flow.toOutcome_ok (s : State) : (Flow.ok s).toOutcome = .next s := rfl
@[simp] theorem Flow.toOutcome_ended (s : State) : (Flow.ended s).toOutcome = .next s := rfl
@[simp] theorem Flow.toOutcome_refused (r : Refusal) : (Flow.refused r).toOutcome = .refused r := rfl

/-- The three ways a stretch of an operation can end, as conditions on the state it leaves: `Q` where every line ran,
`E` where a halt or a reset ended it. -/
def Flow.Sat (f : Flow) (Q E : State → Prop) : Prop :=
  match f with
  | .ok s => Q s
  | .ended s => E s
  | .refused _ => True

@[simp] theorem Flow.sat_ok (s : State) (Q E : State → Prop) : (Flow.ok s).Sat Q E ↔ Q s := Iff.rfl
@[simp] theorem Flow.sat_ended (s : State) (Q E : State → Prop) : (Flow.ended s).Sat Q E ↔ E s := Iff.rfl
@[simp] theorem Flow.sat_refused (r : Refusal) (Q E : State → Prop) : (Flow.refused r).Sat Q E ↔ True := Iff.rfl

theorem Flow.Sat.andThen {f : Flow} {g : Op} {M Q E : State → Prop} (hf : f.Sat M E)
    (hg : ∀ s, M s → (g s).Sat Q E) : (f.andThen g).Sat Q E := by
  cases f with
  | ok s => exact hg s hf
  | ended s => exact hf
  | refused r => trivial

theorem Flow.Sat.mono {f : Flow} {Q Q' E E' : State → Prop} (hf : f.Sat Q E) (hQ : ∀ s, Q s → Q' s)
    (hE : ∀ s, E s → E' s) : f.Sat Q' E' := by
  cases f with
  | ok s => exact hQ s hf
  | ended s => exact hE s hf
  | refused r => trivial

/-- A program keeps `P`, ending in `E` where it ends early, if each of its operations does. -/
theorem prog_sat {P E : State → Prop} (os : List Op) (h : ∀ o ∈ os, ∀ s, P s → (o s).Sat P E) (s : State) (hs : P s) :
    (prog os s).Sat P E := by
  induction os generalizing s with
  | nil => exact hs
  | cons o os ih =>
    exact (h o (by simp) s hs).andThen fun t ht => ih (fun o' ho' => h o' (by simp [ho'])) t ht

/-! ### Lines and resets -/

@[simp] theorem line_of_rst_none (s : State) (h : s.rst = none) : line s = .ok s := by simp [line, h]

theorem line_of_rst_zero (s : State) (h : s.rst = some 0) : line s = .ended s.restart := by simp [line, h]

theorem line_of_rst_succ (s : State) (k : Nat) (h : s.rst = some (k + 1)) : line s = .ok { s with rst := some k } := by
  simp [line, h]

/-- Everything a line can do: pass, or end the run by the reset that is due. -/
theorem line_sat {P E : State → Prop} (s : State) (hs : P s) (hr : ∀ k, P { s with rst := k })
    (he : E s.restart) : (line s).Sat P E := by
  unfold line
  split
  · exact hs
  · exact he
  · exact hr _

/-- An output line without a pending reset. -/
theorem output_of_rst_none (e : Event) (f : State → State) (s : State) (h : s.rst = none) :
    output e f s = .ok ((f s).log e) := by
  simp [output, line_of_rst_none s h]

@[simp] theorem setClk_of_rst_none (v : Bool) (s : State) (h : s.rst = none) :
    setClk v s = .ok ({ s with clk := v }.log (.clk v)) := output_of_rst_none _ _ s h

@[simp] theorem setDio_of_rst_none (v : Bool) (s : State) (h : s.rst = none) :
    setDio v s = .ok ({ s with dio := v }.log (.dio v)) := output_of_rst_none _ _ s h

@[simp] theorem setBuz_of_rst_none (v : Bool) (s : State) (h : s.rst = none) :
    setBuz v s = .ok ({ s with buz := v }.log (.buz v)) := output_of_rst_none _ _ s h

@[simp] theorem waitUs_of_rst_none (n : Config → Nat) (s : State) (h : s.rst = none) :
    waitUs n s = .ok (s.log (.waitUs (n s.cfg))) := output_of_rst_none _ _ s h

@[simp] theorem waitMs_of_rst_none (n : Config → Nat) (s : State) (h : s.rst = none) :
    waitMs n s = .ok (s.log (.waitMs (n s.cfg))) := output_of_rst_none _ _ s h

/-! ### Environment points -/

theorem State.foldl_move_rst (ms : List EnvMove) (s : State) (h : ∀ m ∈ ms, m.isRst = false) :
    (ms.foldl State.move s).rst = s.rst := by
  induction ms generalizing s with
  | nil => rfl
  | cons m ms ih =>
    rw [List.foldl_cons, ih _ fun m' hm' => h m' (by simp [hm'])]
    have hm := h m (by simp)
    rcases m with _ | _ | ⟨u, v⟩ | _ | _
    · rfl
    · simp only [State.move]; split <;> rfl
    · cases u <;> rfl
    · rfl
    · exact absurd hm (by simp [EnvMove.isRst])

/-- Where no reset will come, none is pending after the environment has moved either. -/
theorem State.NoReset.envMove {s : State} (h : s.NoReset) : s.envMove.NoReset := by
  refine ⟨?_, fun ms hms => h.2 ms ?_⟩
  · unfold State.envMove
    split
    · exact h.1
    · rename_i ms rest he
      rw [State.foldl_move_rst ms _ (h.2 ms (by simp [he]))]
      exact h.1
  · rw [State.envMove_env] at hms
    exact List.mem_of_mem_tail hms

theorem State.foldl_move_sec (ms : List EnvMove) (s : State) (h : ∀ m ∈ ms, m.isSecTick = false) :
    (ms.foldl State.move s).sec = s.sec := by
  induction ms generalizing s with
  | nil => rfl
  | cons m ms ih =>
    rw [List.foldl_cons, ih _ fun m' hm' => h m' (by simp [hm'])]
    have hm := h m (by simp)
    rcases m with _ | _ | ⟨u, v⟩ | _ | _
    · rfl
    · exact absurd hm (by simp [EnvMove.isSecTick])
    · cases u <;> rfl
    · rfl
    · rfl

/-- Where no `SECTICK` will come, the environment leaves `SEC` alone (10_state.md R36). -/
theorem State.NoSecTick.envMove_sec {s : State} (h : s.NoSecTick) : s.envMove.sec = s.sec := by
  unfold State.envMove
  split
  · rfl
  · rename_i ms rest he
    exact State.foldl_move_sec ms _ (h ms (by simp [he]))

/-- Where no `SECTICK` will come, none will come after the environment has moved either. -/
theorem State.NoSecTick.envMove {s : State} (h : s.NoSecTick) : s.envMove.NoSecTick := fun ms hms => by
  rw [State.envMove_env] at hms
  exact h ms (List.mem_of_mem_tail hms)

/-- An environment point where no reset will come: the environment moves, and the line goes on. -/
@[simp] theorem envPoint_of_noReset (s : State) (h : s.NoReset) : envPoint s = .ok s.envMove := by
  simp [envPoint, h.envMove.1]

/-- Everything an environment point can do. -/
theorem envPoint_sat {P E : State → Prop} (s : State) (hs : P s.envMove) (hr : ∀ k, P { s.envMove with rst := k })
    (he : E s.envMove.restart) : (envPoint s).Sat P E := line_sat _ hs hr he

/-! ### Whole operations -/

theorem runOp_of_ready (o : Op) (s : State) (hh : s.halt = false) (hr : s.rst ≠ some 0) :
    runOp o s = (o s).toOutcome := by
  simp [runOp, hh, hr]

/-- Everything a whole operation can answer as a next state. -/
theorem runOp_sat {Q : State → Prop} (o : Op) (s t : State) (h : runOp o s = .next t) (hreset : Q s.restart)
    (hhalt : s.halt = true → (envPoint s).Sat Q Q) (hrun : s.halt = false → (o s).Sat Q Q) : Q t := by
  unfold runOp at h
  have key : ∀ f : Flow, f.Sat Q Q → f.toOutcome = .next t → Q t := by
    intro f hf he
    cases f with
    | ok s' => simp only [Flow.toOutcome_ok, Host.Outcome.next.injEq] at he; exact he ▸ hf
    | ended s' => simp only [Flow.toOutcome_ended, Host.Outcome.next.injEq] at he; exact he ▸ hf
    | refused r => simp at he
  split at h
  · simp only [Host.Outcome.next.injEq] at h; exact h ▸ hreset
  · split at h
    · exact key _ (hhalt (by assumption)) h
    · exact key _ (hrun (by simpa using ‹¬s.halt = true›)) h

end Sys2Proof.Machine
end

