-- ==== Sys2Proof/Laws/SerialEngine.lean ====
section
/-! SUPPORT. What the operations of the serial engine do where no reset is pending: the line-by-line pseudocode of
41_serial_engine.md emits exactly the wire symbols of 30_encoding.md. -/

namespace Sys2Proof.Machine

open Sys2Proof

/-! ### The framing checker -/

@[simp] theorem track_of_some (p : Prim) (s : State) (f : Option Tracker) (h : trackNext s.framing p = some f) :
    track p s = .ok { s with framing := f } := by simp [track, h]

@[simp] theorem trackNext_none (p : Prim) : trackNext none p = some none := rfl

theorem trackComposite_of_ok (s : State) (h : compositeOk s.framing = true) : trackComposite s = .ok s := by
  simp [trackComposite, h]

theorem compositeOk_cases {f : Option Tracker} (h : compositeOk f = true) : f = none ∨ f = some .idle := by
  simpa [compositeOk] using h

/-- The checker's state after each primitive of a transaction that begins where a composite may run. -/
theorem compositeOk_start {f : Option Tracker} (h : compositeOk f = true) :
    trackNext f .start = some (f.map fun _ => .open0) := by
  rcases compositeOk_cases h with rfl | rfl <;> rfl

/-! ### Primitives -/

theorem start_of_rst_none (s : State) (f : Option Tracker) (hr : s.rst = none)
    (hf : trackNext s.framing .start = some f) :
    start s = .ok { s with framing := f, clk := true, dio := false, trace := s.trace ++ symS s.cfg } := by
  simp [start, hf, hr, State.log, symS]

theorem stop_of_rst_none (s : State) (f : Option Tracker) (hr : s.rst = none)
    (hf : trackNext s.framing .stop = some f) :
    stop s = .ok { s with framing := f, clk := true, dio := true, trace := s.trace ++ symP s.cfg } := by
  simp [stop, hf, hr, State.log, symP]

theorem waitAck_of_rst_none (s : State) (f : Option Tracker) (hr : s.rst = none)
    (hf : trackNext s.framing .ack = some f) :
    waitAck s = .ok { s with framing := f, clk := false, trace := s.trace ++ symA s.cfg } := by
  simp [waitAck, hf, hr, State.log, symA]

theorem bitCell_of_rst_none (s : State) (hr : s.rst = none) :
    bitCell s = .ok { s with
      clk := true
      dio := s.shr.getLsbD 0
      shr := s.shr >>> 1
      bitc := s.bitc - 1
      trace := s.trace ++ symBit s.cfg (s.shr.getLsbD 0) } := by
  simp [bitCell, dioFromShr, hr, State.log, symBit]

theorem byte_shifted_out (b : Byte) : b >>> 8 = 0#8 := by
  revert b; decide

theorem wrByte_of_rst_none (b : Byte) (s : State) (f : Option Tracker) (hr : s.rst = none)
    (hf : trackNext s.framing .byte = some f) :
    wrByte b s = .ok { s with
      framing := f
      clk := true
      dio := b.getLsbD 7
      shr := 0
      bitc := 0
      trace := s.trace ++ symByte s.cfg b } := by
  simp [wrByte, hf, bitCells, bitCell_of_rst_none, hr, symByte]
  exact byte_shifted_out b

/-! ### Composites -/

/-- A byte and its acknowledge slot, from a checker state in which a byte may be sent. -/
theorem ackedByte_of_rst_none (b : Byte) (s : State) (f : Option Tracker) (hr : s.rst = none)
    (hf : trackNext s.framing .byte = some f) (ha : trackNext f .ack = some (f.map fun _ => .open1)) (os : List Op) :
    prog (wrByte b :: waitAck :: os) s = prog os { s with
      framing := f.map fun _ => .open1
      clk := false
      dio := b.getLsbD 7
      shr := 0
      bitc := 0
      trace := s.trace ++ (symByte s.cfg b ++ symA s.cfg) } := by
  rw [prog_cons, wrByte_of_rst_none b s f hr hf, Flow.andThen_ok, prog_cons,
    waitAck_of_rst_none _ (f.map fun _ => .open1)]
  · simp
  · exact hr
  · exact ha

/-- The checker's states while a transaction that a composite opened is on the wire. -/
theorem track_open {f : Option Tracker} (h : compositeOk f = true) :
    trackNext f .start = some (f.map fun _ => .open0) ∧
    trackNext (f.map fun _ => Tracker.open0) .byte = some (f.map fun _ => .sent) ∧
    trackNext (f.map fun _ => Tracker.sent) .ack = some (f.map fun _ => .open1) ∧
    trackNext (f.map fun _ => Tracker.open1) .byte = some (f.map fun _ => .sent) ∧
    trackNext (f.map fun _ => Tracker.open1) .stop = some f := by
  rcases compositeOk_cases h with rfl | rfl <;> exact ⟨rfl, rfl, rfl, rfl, rfl⟩

theorem sendCommand_of_rst_none (b : Byte) (s : State) (hr : s.rst = none) (hf : compositeOk s.framing = true) :
    sendCommand b s = .ok { s with
      clk := true
      dio := true
      shr := 0
      bitc := 0
      trace := s.trace ++ transaction s.cfg [b] } := by
  obtain ⟨h0, h1, h2, -, h4⟩ := track_open hf
  rw [sendCommand, prog_cons, trackComposite_of_ok s hf, Flow.andThen_ok, prog_cons, start_of_rst_none s _ hr h0,
    Flow.andThen_ok, ackedByte_of_rst_none b _ (s.framing.map fun _ => .sent), prog_cons,
    stop_of_rst_none _ s.framing]
  · simp [transaction, ackedBytes]
  · exact hr
  · simpa [Function.comp_def] using h4
  · exact hr
  · exact h1
  · simpa [Function.comp_def] using h2

/-- `IDX` after `n` more digits. -/
theorem idx_count (i : BitVec 3) (n : Nat) : i + 1#3 + BitVec.ofNat 3 n = i + BitVec.ofNat 3 (n + 1) := by
  rw [BitVec.add_assoc]; congr 1
  apply BitVec.eq_of_toNat_eq; simp; omega

theorem sendDigits_of_rst_none (k : Bool) (ds : List Digit) (s : State) (f : Option Tracker) (hr : s.rst = none)
    (hf : compositeOk f = true) (hs : s.framing = f.map fun _ => .open1) :
    ∃ d, sendDigits k ds s = .ok { s with
      clk := if ds = [] then s.clk else false
      dio := d
      shr := if ds = [] then s.shr else 0
      bitc := if ds = [] then s.bitc else 0
      idx := s.idx + BitVec.ofNat 3 ds.length
      trace := s.trace ++ ackedBytes s.cfg (ds.map (wireGlyph s.cfg k)) } := by
  obtain ⟨-, -, h2, h3, -⟩ := track_open hf
  induction ds generalizing s with
  | nil => exact ⟨s.dio, by simp [sendDigits, ackedBytes]⟩
  | cons d ds ih =>
    obtain ⟨d', hd⟩ := ih { s with
      framing := f.map fun _ => .open1
      clk := false
      dio := (wireGlyph s.cfg k d).getLsbD 7
      shr := 0
      bitc := 0
      trace := s.trace ++ (symByte s.cfg (wireGlyph s.cfg k d) ++ symA s.cfg)
      idx := s.idx + 1 } hr rfl
    refine ⟨d', ?_⟩
    have hb : prog [fun s => wrByte (wireGlyph s.cfg k d) s, waitAck, update fun s => { s with idx := s.idx + 1 },
        sendDigits k ds] s =
        prog [wrByte (wireGlyph s.cfg k d), waitAck, update fun s => { s with idx := s.idx + 1 },
        sendDigits k ds] s := rfl
    rw [sendDigits, hb, ackedByte_of_rst_none _ s (f.map fun _ => .sent) hr (by rw [hs]; exact h3)
      (by simpa [Function.comp_def] using h2)]
    simp only [prog_cons, update_apply, Flow.andThen_ok, Option.map_map, Function.comp_def]
    rw [hd]
    simp [ackedBytes, hs, idx_count, ite_self]

/-- The frame of `WRFRAME` (41_serial_engine.md R150): format FR of 30_encoding.md R95. -/
theorem sendFrame_of_rst_none (k : Bool) (dcmd addr : Byte) (ds : List Digit) (disp : Byte) (s : State)
    (hr : s.rst = none) (hf : compositeOk s.framing = true) :
    sendFrame k dcmd addr ds disp s = .ok { s with
      clk := true
      dio := true
      shr := 0
      bitc := 0
      idx := BitVec.ofNat 3 ds.length
      trace := s.trace ++ frameEvents s.cfg k dcmd addr ds disp } := by
  obtain ⟨h0, h1, h2, h3, h4⟩ := track_open hf
  obtain ⟨d, hd⟩ := sendDigits_of_rst_none k ds { s with
      framing := s.framing.map fun _ => .open1
      clk := false
      dio := addr.getLsbD 7
      shr := 0
      bitc := 0
      idx := 0
      trace := s.trace ++ transaction s.cfg [dcmd] ++ symS s.cfg ++ (symByte s.cfg addr ++ symA s.cfg) } s.framing hr hf rfl
  rw [sendFrame, prog_cons, sendCommand_of_rst_none dcmd s hr hf, Flow.andThen_ok, prog_cons,
    start_of_rst_none _ (s.framing.map fun _ => .open0), Flow.andThen_ok,
    ackedByte_of_rst_none addr _ (s.framing.map fun _ => .sent)]
  · simp only [setIdx, update_apply, prog_cons, Option.map_map, Function.comp_def, Flow.andThen_ok, hd]
    rw [stop_of_rst_none _ s.framing, Flow.andThen_ok, prog_cons, sendCommand_of_rst_none disp]
    · simp [frameEvents, transaction, ackedBytes]
    · exact hr
    · exact hf
    · exact hr
    · exact h4
  · exact hr
  · exact h1
  · simpa [Function.comp_def] using h2
  · exact hr
  · exact h0

/-- `WRFRAME` with a legal length and legal digits. -/
theorem wrFrame_of_rst_none (n : Nat) (k : Bool) (dcmd addr : Byte) (ls : Vector Digit 6) (disp : Byte) (s : State)
    (hr : s.rst = none) (hf : compositeOk s.framing = true) (hn : frameLengthOk s.cfg n = true)
    (hg : glyphRangeOk (firstDigits n ls) = true) :
    wrFrame n k dcmd addr ls disp s = .ok { s with
      clk := true
      dio := true
      shr := 0
      bitc := 0
      idx := BitVec.ofNat 3 n
      trace := s.trace ++ frameEvents s.cfg k dcmd addr (firstDigits n ls) disp } := by
  have hl : (firstDigits n ls).length = n := by
    simp [frameLengthOk] at hn
    simp [firstDigits]; omega
  simp [wrFrame, hn, hg, trackComposite_of_ok s hf, sendFrame_of_rst_none k dcmd addr _ disp s hr hf, hl]

/-- Everything `WRFRAME` can do before its first event (60_exceptions.md R250). -/
theorem wrFrame_of_badLength (n : Nat) (k : Bool) (dcmd addr : Byte) (ls : Vector Digit 6) (disp : Byte) (s : State)
    (hn : frameLengthOk s.cfg n = false) : wrFrame n k dcmd addr ls disp s = .refused .frameLength := by
  simp [wrFrame, hn]

theorem wrFrame_of_badGlyph (n : Nat) (k : Bool) (dcmd addr : Byte) (ls : Vector Digit 6) (disp : Byte) (s : State)
    (hf : compositeOk s.framing = true) (hn : frameLengthOk s.cfg n = true)
    (hg : glyphRangeOk (firstDigits n ls) = false) :
    wrFrame n k dcmd addr ls disp s = .ended { s with halt := true, hcause := .glyphRange } := by
  simp [wrFrame, hn, hg, trackComposite_of_ok s hf, raiseHalt]

end Sys2Proof.Machine
end

