-- ==== Sys2Proof/Laws/Session.lean ====
section
/-! SUPPORT. What the operations of the session, the debounce filter and the digit encoder do where no reset will
come. -/

namespace Sys2Proof.Machine

open Sys2Proof

/-! ### Port lines at an environment point -/

theorem clearSec_of_noReset (s : State) (h : s.NoReset) :
    clearSec s = .ok ({ s.envMove with sec := 0 }.log .secClr) := by
  simp [clearSec, h]

theorem driveTmrRun_of_noReset (s : State) (h : s.NoReset) :
    driveTmrRun s = .ok ({ s.envMove with tmrRun := s.run }.log (.tmrRun s.run)) := by
  simp [driveTmrRun, h]

theorem sampleBtn_of_noReset (u : Button) (k : Bool → Op) (s : State) (h : s.NoReset) :
    sampleBtn u k s = k (s.envMove.btn u) s.envMove := by simp [sampleBtn, h]

theorem sampleTick_of_noReset (k : Nat → Op) (s : State) (h : s.NoReset) :
    sampleTick k s = k s.envMove.tick s.envMove := by simp [sampleTick, h]

theorem sampleSec_of_noReset (k : Nat → Op) (s : State) (h : s.NoReset) :
    sampleSec k s = k s.envMove.sec s.envMove := by simp [sampleSec, h]

theorem sampleTmrFail_of_noReset (k : Bool → Op) (s : State) (h : s.NoReset) :
    sampleTmrFail k s = k s.envMove.tmrFail s.envMove := by simp [sampleTmrFail, h]

/-! ### CTRLEDGE -/

/-- The state of a `CTRLEDGE` at its sample of `TMR_FAIL`: `RUN` is toggled and `TMR_RUN` written (43_session.md R190),
and the environment has moved before each of the two lines that touch it. -/
def State.atTimerSample (s : State) : State :=
  State.envMove ({ State.envMove { s with run := !s.run } with tmrRun := !s.run }.log (.tmrRun (!s.run)))

theorem State.NoReset.atTimerSample {s : State} (h : s.NoReset) : s.atTimerSample.NoReset := by
  have h1 : State.NoReset { s with run := !s.run } := h
  have h2 : State.NoReset ({ State.envMove { s with run := !s.run } with tmrRun := !s.run }.log (.tmrRun (!s.run))) :=
    h1.envMove
  exact h2.envMove

theorem ctrlEdge_of_noReset (s : State) (h : s.NoReset) :
    ctrlEdge s =
      if s.atTimerSample.tmrFail then
        .ended { s.atTimerSample with halt := true, hcause := if s.run then .timerStop else .timerStart }
      else .ok ({ s.atTimerSample.envMove with
        sec := 0, mode := .focus, tgt := s.cfg.tFocus, cyc := 0 }.log .secClr) := by
  have h1 : State.NoReset { s with run := !s.run } := h
  have h2 : State.NoReset ({ State.envMove { s with run := !s.run } with tmrRun := !s.run }.log (.tmrRun (!s.run))) :=
    h1.envMove
  have h3 := h.atTimerSample
  simp only [ctrlEdge, prog_cons, update_apply, Flow.andThen_ok, driveTmrRun_of_noReset _ h1,
    sampleTmrFail_of_noReset _ _ h2, Flow.andThen_prog_nil]
  change (if s.atTimerSample.tmrFail = true then haltTimer else _) s.atTimerSample = _
  have hrun : s.atTimerSample.run = !s.run := by simp [State.atTimerSample]
  have hcfg : s.atTimerSample.cfg = s.cfg := by simp [State.atTimerSample]
  cases hf : s.atTimerSample.tmrFail
  · simp [clearSec_of_noReset _ h3, setMode, setTgt, setCyc, State.log, hcfg]
  · cases hr : s.run <;> simp [haltTimer, raiseHalt, hrun, hr, hf]

/-! ### ROLL and its two users -/

/-- The state after `ROLL` (43_session.md R187). -/
def State.rolled (s : State) : State :=
  { State.envMove { s with mode := (nextMode s.cfg s.mode s.cyc).mode, cyc := (nextMode s.cfg s.mode s.cyc).cyc } with
    sec := 0, tgt := dur s.cfg (nextMode s.cfg s.mode s.cyc).mode }.log .secClr

theorem State.NoReset.rolled {s : State} (h : s.NoReset) : s.rolled.NoReset := by
  have h1 : State.NoReset { s with
    mode := (nextMode s.cfg s.mode s.cyc).mode, cyc := (nextMode s.cfg s.mode s.cyc).cyc } := h
  exact h1.envMove

theorem roll_of_noReset (k : Nat → Op) (s : State) (h : s.NoReset) :
    roll k s = k (nextMode s.cfg s.mode s.cyc).pulses s.rolled := by
  have h1 : State.NoReset { s with
    mode := (nextMode s.cfg s.mode s.cyc).mode, cyc := (nextMode s.cfg s.mode s.cyc).cyc } := h
  simp [roll, setMode, setCyc, setTgt, clearSec_of_noReset _ h1, State.log, State.rolled]

theorem funcEdge_of_noReset (s : State) (h : s.NoReset) : funcEdge s = .ok s.rolled := by
  simp [funcEdge, roll_of_noReset _ s h]

theorem pulse_of_rst_none (p : Nat) (s : State) (hr : s.rst = none) :
    pulse p s = .ok { s with buz := false, trace := s.trace ++ pulseEvents s.cfg p } := by
  by_cases hp : 2 ≤ p <;> simp [pulse, hp, hr, State.log, pulseEvents]

theorem pulses_of_rst_none (p n : Nat) (s : State) (hr : s.rst = none) :
    pulses p (n + 1) s =
      .ok { s with buz := false, trace := s.trace ++ (List.replicate (n + 1) (pulseEvents s.cfg p)).flatten } := by
  induction n generalizing s with
  | zero => simp [pulses, pulse_of_rst_none p s hr]
  | succ n ih =>
    have h1 := ih { s with buz := false, trace := s.trace ++ pulseEvents s.cfg p } hr
    rw [pulses, prog_cons, pulse_of_rst_none p s hr, Flow.andThen_ok, prog_cons, h1]
    simp [List.replicate_succ]

theorem cue_of_rst_none (p : Nat) (hp : p ≠ 0) (s : State) (hr : s.rst = none) :
    cue p s = .ok { s with buz := false, trace := s.trace ++ cueEvents s.cfg p } := by
  obtain ⟨n, rfl⟩ := Nat.exists_eq_succ_of_ne_zero hp
  simp only [cue, hp, if_false]
  exact pulses_of_rst_none (n + 1) n s hr

/-- Every rollover has a cue of 1, 2 or 3 pulses (43_session.md R195). -/
theorem nextMode_pulses (c : Config) (m : Mode) (n : Nat) :
    (nextMode c m n).pulses = match m with
      | .focus => 1
      | .shortBreak => 2
      | .longBreak => 3 := by
  cases m <;> simp only [nextMode, nextAtFocusExit, nextAtShortExit] <;> split <;> try split
  all_goals rfl

theorem nextMode_pulses_ne_zero (c : Config) (m : Mode) (n : Nat) : (nextMode c m n).pulses ≠ 0 := by
  rw [nextMode_pulses]; cases m <;> decide

theorem autoRoll_of_noReset (s : State) (h : s.NoReset) :
    autoRoll s = .ok { s.rolled with
      buz := false
      trace := s.rolled.trace ++ cueEvents s.cfg (nextMode s.cfg s.mode s.cyc).pulses } := by
  have hc : s.rolled.cfg = s.cfg := by simp [State.rolled]
  rw [autoRoll, roll_of_noReset _ s h, cue_of_rst_none _ (nextMode_pulses_ne_zero _ _ _) _ h.rolled.1]
  simp [hc]

/-! ### DBPOLL -/

/-- The state at a poll's second sample: the environment has moved before the pin's sample and before the tick's. -/
def State.atTickSample (s : State) : State := s.envMove.envMove

theorem dbPoll_of_noReset (u : Button) (s : State) (h : s.NoReset) :
    dbPoll u s =
      prog [dbObserve u (s.envMove.btn u) s.atTickSample.tick, dbCommit u (s.envMove.btn u) s.atTickSample.tick]
        s.atTickSample := by
  rw [dbPoll, sampleBtn_of_noReset u _ s h, sampleTick_of_noReset _ _ h.envMove]
  rfl

/-- A poll that does not fire (42_debounce.md R171): the registers of its instance are those of the transition rule. -/
theorem dbPoll_of_quiet (u : Button) (s : State) (h : s.NoReset)
    (hq : ((s.db u).poll s.cfg (s.envMove.btn u) s.atTickSample.tick).2 = false) :
    dbPoll u s =
      .ok (s.atTickSample.setDb u ((s.db u).poll s.cfg (s.envMove.btn u) s.atTickSample.tick).1) := by
  have hd : s.atTickSample.db u = s.db u := by simp [State.atTickSample]
  have hc : s.atTickSample.cfg = s.cfg := by simp [State.atTickSample]
  rw [dbPoll_of_noReset u s h]
  simp only [prog_cons, dbObserve, update_apply, Flow.andThen_ok, dbCommit, hd, State.db_setDb, State.setDb_cfg, hc]
  unfold Debounce.poll at hq ⊢
  split at hq
  · rename_i hcm
    have hq' : (s.envMove.btn u == s.cfg.active) = false := hq
    rw [if_pos hcm]
    simp [hcm, hq']
  · rename_i hcm
    rw [if_neg hcm]
    simp [hcm]

/-- A poll that fires: the action of the edge event runs inside it. -/
theorem dbPoll_of_edge (u : Button) (s : State) (h : s.NoReset)
    (hq : ((s.db u).poll s.cfg (s.envMove.btn u) s.atTickSample.tick).2 = true) :
    dbPoll u s =
      fire u (s.atTickSample.setDb u ((s.db u).poll s.cfg (s.envMove.btn u) s.atTickSample.tick).1) := by
  have hd : s.atTickSample.db u = s.db u := by simp [State.atTickSample]
  have hc : s.atTickSample.cfg = s.cfg := by simp [State.atTickSample]
  rw [dbPoll_of_noReset u s h]
  simp only [prog_cons, dbObserve, update_apply, Flow.andThen_ok, dbCommit, hd, State.db_setDb, State.setDb_cfg, hc]
  unfold Debounce.poll at hq ⊢
  split at hq
  · rename_i hcm
    have hq' : (s.envMove.btn u == s.cfg.active) = true := hq
    rw [if_pos hcm]
    simp only [hcm, hq', State.setDb_setDb, if_true]
    simp
  · simp at hq

/-! ### TODIGITS -/

theorem encodeDigits_of_ok (e : Nat) (k : Digits → Op) (h : e < 6000) : encodeDigits e k = k (toDigits e) := by
  simp [encodeDigits, digitRangeOk, h]

theorem encodeDigits_of_large (e : Nat) (k : Digits → Op) (h : 6000 ≤ e) :
    encodeDigits e k = raiseHalt .digitRange := by
  simp [encodeDigits, digitRangeOk, Nat.not_lt.mpr h]

/-- The four digits as numbers, and that they are digits (40_digit_encoder.md R131). -/
theorem toDigits_toNat (e : Nat) (h : e < 6000) :
    (toDigits e).d0.toNat = e / 60 / 10 ∧ (toDigits e).d1.toNat = e / 60 % 10 ∧
    (toDigits e).d2.toNat = e % 60 / 10 ∧ (toDigits e).d3.toNat = e % 60 % 10 := by
  simp only [toDigits, BitVec.toNat_ofNat]
  omega

end Sys2Proof.Machine
end

