-- ==== Sys2Proof/Laws/Coordinator.lean ====
section
/-! SUPPORT. What the refresh coordinator and the scheduler do where no reset will come. -/

namespace Sys2Proof.Machine

open Sys2Proof

/-! ### The digits a refresh sends are in the glyph table (44_refresh_scheduler.md R217) -/

theorem boundedDigit_lt (d : Digit) : (boundedDigit d).toNat < 12 := by revert d; decide

theorem firstDigits_refresh_ok (s : State) (n : Nat) (h : ∀ d ∈ [s.dig.d0, s.dig.d1, s.dig.d2, s.dig.d3], d.toNat < 12) :
    glyphRangeOk (firstDigits n s.refreshDigits) = true := by
  simp only [glyphRangeOk, List.all_eq_true, decide_eq_true_eq, firstDigits]
  intro d hd
  have hm := List.mem_of_mem_take hd
  simp only [State.refreshDigits, Vector.toList_mk, List.mem_cons, List.not_mem_nil, or_false] at hm
  simp only [List.mem_cons, List.not_mem_nil, or_false] at h
  rcases hm with h0 | h1 | h2 | h3 | rfl | rfl
  · exact h d (.inl h0)
  · exact h d (.inr (.inl h1))
  · exact h d (.inr (.inr (.inl h2)))
  · exact h d (.inr (.inr (.inr h3)))
  · exact boundedDigit_lt _
  · exact boundedDigit_lt _

theorem toDigits_lt (e : Nat) (he : e < 6000) :
    ∀ d ∈ [(toDigits e).d0, (toDigits e).d1, (toDigits e).d2, (toDigits e).d3], d.toNat < 12 := by
  obtain ⟨h0, h1, h2, h3⟩ := toDigits_toNat e he
  simp only [List.mem_cons, List.not_mem_nil, or_false]
  rintro d (rfl | rfl | rfl | rfl) <;> omega

/-! ### REFRESH -/

/-- The state after the lines of `REFRESH` that render `e` (44_refresh_scheduler.md R217). -/
def State.rendered (s : State) (e : Nat) : State :=
  { s with
    dig := toDigits e
    blink := !s.blink
    clk := true
    dio := true
    shr := 0
    bitc := 0
    idx := BitVec.ofNat 3 s.cfg.nBuf
    trace := s.trace ++ frameEvents s.cfg (!s.blink) s.cfg.cmdData s.cfg.cmdAddr
      (firstDigits s.cfg.nBuf (State.refreshDigits { s with dig := toDigits e })) s.cfg.cmdDisp
    last := e }

theorem render_of_rst_none (e : Nat) (s : State) (hr : s.rst = none) (he : e < 6000)
    (hf : compositeOk s.framing = true) (hn : FrameFits s.cfg) : render e s = .ok (s.rendered e) := by
  rw [render, encodeDigits_of_ok e _ he]
  simp only [prog_cons, setDig, update_apply, Flow.andThen_ok, sendDisplay, setLast]
  rw [wrFrame_of_rst_none]
  · rfl
  · exact hr
  · exact hf
  · exact hn
  · exact firstDigits_refresh_ok _ _ (toDigits_lt e he)

theorem render_of_large (e : Nat) (s : State) (he : 6000 ≤ e) :
    render e s = .ended { s with halt := true, hcause := .digitRange } := by
  rw [render, encodeDigits_of_large e _ he]; rfl

theorem refresh_of_noReset (s : State) (h : s.NoReset) :
    refresh s =
      if s.envMove.sec = s.last then .ok s.envMove
      else if s.envMove.sec = s.tgt then (autoRoll s.envMove).andThen (render 0)
      else render s.envMove.sec s.envMove := by
  rw [refresh, sampleSec_of_noReset _ s h]
  by_cases h1 : s.envMove.sec = s.last
  · simp [secChanged, h1]
  · by_cases h2 : s.envMove.sec = s.tgt
    · simp [secChanged, reachesTarget, h2, show ¬ s.tgt = s.last from h2 ▸ h1]
    · simp [secChanged, reachesTarget, h1, h2]

/-- The state after an automatic rollover (43_session.md R192). -/
def State.autoRolled (s : State) : State :=
  { s.rolled with
    buz := false
    trace := s.rolled.trace ++ cueEvents s.cfg (nextMode s.cfg s.mode s.cyc).pulses }

theorem refresh_of_rollover (s : State) (h : s.NoReset) (h1 : s.envMove.sec ≠ s.last) (h2 : s.envMove.sec = s.tgt)
    (hf : compositeOk s.framing = true) (hn : FrameFits s.cfg) :
    refresh s = .ok (s.envMove.autoRolled.rendered 0) := by
  rw [refresh_of_noReset s h, if_neg h1, if_pos h2, autoRoll_of_noReset _ h.envMove, Flow.andThen_ok]
  have hc : s.envMove.rolled.cfg = s.cfg := by simp [State.rolled]
  have hfr : s.envMove.rolled.framing = s.framing := by simp [State.rolled]
  rw [render_of_rst_none]
  · rfl
  · exact h.envMove.rolled.1
  · decide
  · simpa only [hfr] using hf
  · simpa only [hc] using hn

/-! ### The sequencer -/

theorem phaseStep_of_ok (p : Phase) (s t : State) (h : phaseBody p s = .ok t) :
    phaseStep p s = .ok { t with ph := p.succ } := by simp [phaseStep, h, setPh]

theorem phaseStep_of_ended (p : Phase) (s t : State) (h : phaseBody p s = .ended t) : phaseStep p s = .ended t := by
  simp [phaseStep, h]

end Sys2Proof.Machine
end

