-- ==== Sys2Proof/Laws/Invariant.lean ====
section
/-! SUPPORT. Everything an operation can do, line by line: a property that every line keeps (`Kept`) is kept by every
operation, with resets, halts and refusals at any line. -/

namespace Sys2Proof.Machine

open Sys2Proof

/-- `P` is kept by a line that only passes; where a reset ends the run there, `E` holds. -/
structure LineKept (P E : State → Prop) : Prop where
  line : ∀ s, P s → (line s).Sat P E
  log : ∀ s e, P s → P (s.log e)

/-- `P` is kept by every line of the serial engine. -/
structure WireKept (P E : State → Prop) : Prop extends LineKept P E where
  clk : ∀ s v, P s → P { s with clk := v }
  dio : ∀ s v, P s → P { s with dio := v }
  idx : ∀ s v, P s → P { s with idx := v }
  shr : ∀ s v, P s → P { s with shr := v }
  bitc : ∀ s v, P s → P { s with bitc := v }
  framing : ∀ s v, P s → P { s with framing := v }

/-- `P` is kept by every line of the session's operations. `V` says which values `CYC` takes. -/
structure SessionKept (V : Nat → Prop) (P E : State → Prop) : Prop extends LineKept P E where
  envPoint : ∀ s, P s → (envPoint s).Sat P E
  buz : ∀ s v, P s → P { s with buz := v }
  secClear : ∀ s, P s → P { s with sec := 0 }
  tmrRun : ∀ s v, P s → P { s with tmrRun := v }
  run : ∀ s v, P s → P { s with run := v }
  mode : ∀ s v, P s → P { s with mode := v }
  cyc : ∀ s v, P s → V v → P { s with cyc := v }
  tgt : ∀ s m, P s → P { s with tgt := dur s.cfg m }
  nextCyc : ∀ s, P s → V (nextMode s.cfg s.mode s.cyc).cyc
  zeroCyc : V 0
  timerHalt : ∀ s c, P s → s.tmrFail = true → c ≠ .noCause → E { s with halt := true, hcause := c }

/-- What may be written to the counters: `LAST`, `CHG[u]` and `CYC` take values of their own kind only. -/
structure Values where
  last : Nat → Prop
  chg : Nat → Prop
  cyc : Nat → Prop

/-- `P` is kept by every line of every operation; where a line ends the run (a reset, a halt), `E` holds. -/
structure Kept (V : Values) (P E : State → Prop) : Prop extends WireKept P E, SessionKept V.cyc P E where
  observe : ∀ s u r t, P s → V.chg t → P (s.setDb u { (s.db u) with raw := r, chg := t })
  commit : ∀ s u r, P s → P (s.setDb u { (s.db u) with stb := r })
  dig : ∀ s e, P s → e < 6000 → P { s with dig := toDigits e }
  blink : ∀ s v, P s → P { s with blink := v }
  last : ∀ s v, P s → V.last v → P { s with last := v }
  qDig : ∀ s v, P s → P { s with qDig := v }
  sampleLast : ∀ s, P s → V.last s.sec
  sampleChg : ∀ s, P s → V.chg s.tick
  zeroLast : V.last 0
  digitHalt : ∀ s e, P s → V.last e → 6000 ≤ e → E { s with halt := true, hcause := .digitRange }

/-! ### Lines -/

namespace LineKept

variable {P E : State → Prop} (h : LineKept P E)

include h

theorem output (e : Event) (f : State → State) (hf : ∀ s, P s → P (f s)) (s : State) (hs : P s) :
    (output e f s).Sat P E :=
  (h.line s hs).andThen fun t ht => h.log _ _ (hf t ht)

theorem waitUs (n : Config → Nat) (s : State) (hs : P s) : (waitUs n s).Sat P E := h.output _ _ (fun _ ht => ht) s hs
theorem waitMs (n : Config → Nat) (s : State) (hs : P s) : (waitMs n s).Sat P E := h.output _ _ (fun _ ht => ht) s hs

end LineKept

/-! ### The serial engine -/

namespace WireKept

variable {P E : State → Prop} (h : WireKept P E)

include h

theorem setClk (v : Bool) (s : State) (hs : P s) : (setClk v s).Sat P E := h.output _ _ (fun t ht => h.clk t v ht) s hs
theorem setDio (v : Bool) (s : State) (hs : P s) : (setDio v s).Sat P E := h.output _ _ (fun t ht => h.dio t v ht) s hs

theorem track (p : Prim) (s : State) (hs : P s) : (track p s).Sat P E := by
  unfold Machine.track
  split
  · exact h.framing _ _ hs
  · trivial

omit h in
theorem trackComposite (s : State) (hs : P s) : (trackComposite s).Sat P E := by
  unfold Machine.trackComposite
  split
  · exact hs
  · trivial

theorem start (s : State) (hs : P s) : (start s).Sat P E :=
  prog_sat _ (by
    simp only [List.mem_cons, List.not_mem_nil, or_false]
    rintro o (rfl | rfl | rfl | rfl | rfl)
    exacts [h.track _, h.setClk _, h.setDio _, h.waitUs _, h.setDio _]) s hs

theorem stop (s : State) (hs : P s) : (stop s).Sat P E :=
  prog_sat _ (by
    simp only [List.mem_cons, List.not_mem_nil, or_false]
    rintro o (rfl | rfl | rfl | rfl | rfl | rfl | rfl | rfl)
    exacts [h.track _, h.setClk _, h.waitUs _, h.setDio _, h.waitUs _, h.setClk _, h.waitUs _, h.setDio _]) s hs

theorem waitAck (s : State) (hs : P s) : (waitAck s).Sat P E :=
  prog_sat _ (by
    simp only [List.mem_cons, List.not_mem_nil, or_false]
    rintro o (rfl | rfl | rfl | rfl | rfl | rfl)
    exacts [h.track _, h.setClk _, h.waitUs _, h.setClk _, h.waitUs _, h.setClk _]) s hs

theorem bitCell (s : State) (hs : P s) : (bitCell s).Sat P E :=
  prog_sat _ (by
    simp only [List.mem_cons, List.not_mem_nil, or_false]
    rintro o (rfl | rfl | rfl | rfl | rfl | rfl | rfl)
    exacts [h.setClk _, fun s hs => h.setDio _ s hs, h.waitUs _, fun s hs => h.shr s _ hs, h.setClk _, h.waitUs _,
      fun s hs => h.bitc s _ hs]) s hs

theorem bitCells (n : Nat) (s : State) (hs : P s) : (bitCells n s).Sat P E := by
  induction n generalizing s with
  | zero => exact hs
  | succ n ih =>
    exact (h.bitCell s hs).andThen fun t ht => (ih t ht).andThen fun _ hu => hu

theorem wrByte (b : Byte) (s : State) (hs : P s) : (wrByte b s).Sat P E :=
  prog_sat _ (by
    simp only [List.mem_cons, List.not_mem_nil, or_false]
    rintro o (rfl | rfl | rfl)
    exacts [h.track _, fun s hs => h.bitc { s with shr := b } 8 (h.shr s b hs), h.bitCells _]) s hs

theorem sendCommand (b : Byte) (s : State) (hs : P s) : (sendCommand b s).Sat P E :=
  prog_sat _ (by
    simp only [List.mem_cons, List.not_mem_nil, or_false]
    rintro o (rfl | rfl | rfl | rfl | rfl)
    exacts [WireKept.trackComposite, h.start, h.wrByte _, h.waitAck, h.stop]) s hs

theorem sendDigits (k : Bool) (ds : List Digit) (s : State) (hs : P s) : (sendDigits k ds s).Sat P E := by
  induction ds generalizing s with
  | nil => exact hs
  | cons d ds ih =>
    refine prog_sat _ ?_ s hs
    simp only [List.mem_cons, List.not_mem_nil, or_false]
    rintro o (rfl | rfl | rfl | rfl)
    exacts [fun s hs => h.wrByte _ s hs, h.waitAck, fun s hs => h.idx s _ hs, ih]

theorem sendFrame (k : Bool) (dcmd addr : Byte) (ds : List Digit) (disp : Byte) (s : State) (hs : P s) :
    (sendFrame k dcmd addr ds disp s).Sat P E :=
  prog_sat _ (by
    simp only [List.mem_cons, List.not_mem_nil, or_false]
    rintro o (rfl | rfl | rfl | rfl | rfl | rfl | rfl | rfl)
    exacts [h.sendCommand _, h.start, h.wrByte _, h.waitAck, fun s hs => h.idx s _ hs, h.sendDigits _ _, h.stop,
      h.sendCommand _]) s hs

/-- `WRFRAME`, with what is needed where it halts. -/
theorem wrFrame (n : Nat) (k : Bool) (dcmd addr : Byte) (ls : Vector Digit 6) (disp : Byte) (s : State) (hs : P s)
    (hg : glyphRangeOk (firstDigits n ls) = false → E { s with halt := true, hcause := .glyphRange }) :
    (wrFrame n k dcmd addr ls disp s).Sat P E := by
  unfold Machine.wrFrame
  split
  · unfold Machine.trackComposite
    rw [prog_cons]
    by_cases hf : compositeOk s.framing = true
    · rw [if_pos hf, Flow.andThen_ok]
      cases hgr : glyphRangeOk (firstDigits n ls)
      · rw [if_neg (by simp)]; exact hg hgr
      · rw [if_pos rfl, prog_singleton]; exact h.sendFrame _ _ _ _ _ s hs
    · rw [if_neg hf]; trivial
  · trivial

end WireKept

/-! ### The session -/

namespace SessionKept

variable {V : Nat → Prop} {P E : State → Prop} (h : SessionKept V P E)

include h

theorem setBuz (v : Bool) (s : State) (hs : P s) : (setBuz v s).Sat P E := h.output _ _ (fun t ht => h.buz t v ht) s hs

theorem pulse (p : Nat) (s : State) (hs : P s) : (pulse p s).Sat P E :=
  prog_sat _ (by
    simp only [List.mem_cons, List.not_mem_nil, or_false]
    rintro o (rfl | rfl | rfl | rfl)
    exacts [h.setBuz _, h.waitMs _, h.setBuz _, fun s hs => by split; exacts [h.waitMs _ s hs, hs]]) s hs

theorem pulses (p n : Nat) (s : State) (hs : P s) : (pulses p n s).Sat P E := by
  induction n generalizing s with
  | zero => exact hs
  | succ n ih => exact (h.pulse p s hs).andThen fun t ht => (ih t ht).andThen fun _ hu => hu

theorem cue (p : Nat) (s : State) (hs : P s) : (cue p s).Sat P E := by
  unfold Machine.cue
  split
  · trivial
  · exact h.pulses _ _ s hs

theorem clearSec (s : State) (hs : P s) : (clearSec s).Sat P E :=
  (h.envPoint s hs).andThen fun t ht => h.log _ _ (h.secClear t ht)

theorem roll (k : Nat → Op) (s : State) (hs : P s) (hk : ∀ n t, P t → (k n t).Sat P E) : (roll k s).Sat P E := by
  refine prog_sat _ ?_ s hs
  simp only [List.mem_cons, List.not_mem_nil, or_false]
  rintro o (rfl | rfl | rfl | rfl | rfl)
  exacts [fun t ht => h.mode t _ ht, fun t ht => h.cyc t _ ht (h.nextCyc s hs), h.clearSec, fun t ht => h.tgt t _ ht,
    fun t ht => hk _ t ht]

theorem funcEdge (s : State) (hs : P s) : (funcEdge s).Sat P E := h.roll _ s hs fun _ _ ht => ht

theorem autoRoll (s : State) (hs : P s) : (autoRoll s).Sat P E := h.roll _ s hs fun n t ht => h.cue n t ht

theorem ctrlEdge (s : State) (hs : P s) : (ctrlEdge s).Sat P E := by
  refine prog_sat _ ?_ s hs
  simp only [List.mem_cons, List.not_mem_nil, or_false]
  rintro o (rfl | rfl | rfl)
  · exact fun t ht => h.run t _ ht
  · exact fun t ht => (h.envPoint t ht).andThen fun u hu => h.log _ _ (h.tmrRun u _ hu)
  · refine fun t ht => (h.envPoint t ht).andThen fun u hu => ?_
    simp only []
    split
    · rename_i hf
      unfold haltTimer raiseHalt
      exact h.timerHalt u _ hu hf (by split <;> simp)
    · refine prog_sat _ ?_ u hu
      simp only [List.mem_cons, List.not_mem_nil, or_false]
      rintro o (rfl | rfl | rfl | rfl)
      exacts [h.clearSec, fun t ht => h.mode t _ ht, fun t ht => h.tgt t .focus ht, fun t ht => h.cyc t _ ht h.zeroCyc]

theorem fire (u : Button) (s : State) (hs : P s) : (fire u s).Sat P E := by
  cases u
  exacts [h.ctrlEdge s hs, h.funcEdge s hs]

end SessionKept

/-! ### The other operations -/

namespace Kept

variable {V : Values} {P E : State → Prop} (h : Kept V P E)

include h

theorem dbPoll (u : Button) (s : State) (hs : P s) : (dbPoll u s).Sat P E := by
  refine (h.envPoint s hs).andThen fun s1 h1 => (h.envPoint s1 h1).andThen fun s2 h2 => ?_
  have hc := h.sampleChg s2 h2
  refine prog_sat _ ?_ s2 h2
  simp only [List.mem_cons, List.not_mem_nil, or_false]
  rintro o (rfl | rfl)
  · intro t ht
    simp only [dbObserve, update_apply, Debounce.observe]
    split
    · exact h.observe t u _ _ ht hc
    · have he : t.setDb u (t.db u) = t := by cases u <;> rfl
      rw [he]; exact ht
  · intro t ht
    simp only [dbCommit]
    split
    · refine prog_sat _ ?_ t ht
      simp only [List.mem_cons, List.not_mem_nil, or_false]
      rintro o (rfl | rfl)
      · exact fun t ht => h.commit t u _ ht
      · split
        exacts [h.fire u, fun _ ht => ht]
    · exact ht

theorem toDigitsOp (s : State) (hs : P s) (hb : 6000 ≤ s.busSec → E { s with halt := true, hcause := .digitRange }) :
    (toDigitsOp s).Sat P E := by
  unfold Machine.toDigitsOp
  by_cases he : s.busSec < 6000
  · rw [encodeDigits_of_ok _ _ he]; exact h.qDig s _ hs
  · rw [encodeDigits_of_large _ _ (by omega)]; exact hb (by omega)

theorem render (e : Nat) (s : State) (hs : P s) (he : V.last e) : (render e s).Sat P E := by
  unfold Machine.render
  by_cases hd : e < 6000
  · rw [encodeDigits_of_ok _ _ hd]
    have hb : P { s with dig := toDigits e, blink := !s.blink } :=
      h.blink { s with dig := toDigits e } (!s.blink) (h.dig s e hs hd)
    have hw := h.wrFrame s.cfg.nBuf (!s.blink) s.cfg.cmdData s.cfg.cmdAddr
      (State.refreshDigits { s with dig := toDigits e, blink := !s.blink }) s.cfg.cmdDisp _ hb fun hg => by
        rw [firstDigits_refresh_ok { s with dig := toDigits e, blink := !s.blink } _ (toDigits_lt e hd)] at hg
        exact absurd hg (by simp)
    exact hw.andThen (g := prog [setLast e]) fun t ht => by
      rw [prog_singleton]; exact h.last t e ht he
  · rw [encodeDigits_of_large _ _ (by omega)]; exact h.digitHalt s e hs he (by omega)

theorem refresh (s : State) (hs : P s) : (refresh s).Sat P E := by
  refine (h.envPoint s hs).andThen fun t ht => ?_
  have hl := h.sampleLast t ht
  simp only []
  split
  · split
    · refine prog_sat _ ?_ t ht
      simp only [List.mem_cons, List.not_mem_nil, or_false]
      rintro o (rfl | rfl)
      exacts [h.autoRoll, fun s hs => h.render 0 s hs h.zeroLast]
    · exact h.render _ t ht hl
  · exact ht

theorem phaseBody (p : Phase) (s : State) (hs : P s) : (phaseBody p s).Sat P E := by
  cases p
  exacts [h.dbPoll .ctrl s hs, h.dbPoll .func s hs, h.refresh s hs]

theorem phaseStep (hp : ∀ s v, P s → P { s with ph := v }) (p : Phase) (s : State) (hs : P s) :
    (phaseStep p s).Sat P E :=
  (h.phaseBody p s hs).andThen fun t ht => hp t _ ht

theorem iter (hp : ∀ s v, P s → P { s with ph := v }) (s : State) (hs : P s) : (iter s).Sat P E := by
  refine prog_sat _ ?_ s hs
  simp only [List.mem_cons, List.not_mem_nil, or_false]
  rintro o (rfl | rfl | rfl | rfl)
  exacts [fun s hs => hp s _ hs, h.phaseStep hp _, h.phaseStep hp _, h.phaseStep hp _]

end Kept

/-- A property that every line keeps is kept by every operation, where a reset, a halted state and the three halts that
depend on what is issued keep it too. -/
theorem exec_sat {V : Values} {P : State → Prop} (h : Kept V P P) (hp : ∀ s v, P s → P { s with ph := v })
    (hreset : ∀ s, P s → P s.restart)
    (hhalt : ∀ s c, P s → c ≠ .noCause → P { s with halt := true, hcause := c })
    (i : Instr) (s t : State) (hs : P s) (he : exec i s = .next t) : P t := by
  have key : ∀ o : Op, (∀ s, P s → (o s).Sat P P) → runOp o s = .next t → P t := fun o ho hr =>
    runOp_sat o s t hr (hreset s hs) (fun _ => h.envPoint s hs) (fun _ => ho s hs)
  cases i
  case start => exact key _ h.start he
  case stop => exact key _ h.stop he
  case wrbyte b => exact key _ (h.wrByte b) he
  case waitack => exact key _ h.waitAck he
  case wrdatacmd b => exact key _ (h.sendCommand b) he
  case wrdispcmd b => exact key _ (h.sendCommand b) he
  case wrframe k n =>
    refine runOp_sat _ s t he (hreset s hs) (fun _ => h.envPoint s hs) fun _ => ?_
    exact h.wrFrame _ _ _ _ _ _ s hs fun _ => hhalt s _ hs (by simp)
  case todigits => exact key _ (fun s hs => h.toDigitsOp s hs fun _ => hhalt s _ hs (by simp)) he
  case dbpoll u => exact key _ (h.dbPoll u) he
  case ctrledge => exact key _ h.ctrlEdge he
  case funcedge => exact key _ h.funcEdge he
  case autoroll => exact key _ h.autoRoll he
  case refresh => exact key _ h.refresh he
  case cue p => exact key _ (h.cue p.toNat) he
  case iter => exact key _ (h.iter hp) he

/-- Everything a step is: one operation, or one phase of the sequencer. -/
theorem step_cases (s t : State) (h : step s = .next t) :
    (s.issued = [] ∧ runOp (phaseStep s.ph) s = .next t) ∨
    ∃ q rest i, s.issued = q :: rest ∧ decode q.word = .ok i ∧ exec i (s.accept q rest) = .next t := by
  unfold step at h
  split at h
  · exact .inl ⟨by assumption, h⟩
  · split at h
    · exact .inr ⟨_, _, _, by assumption, by assumption, h⟩
    · simp at h

/-- A property that every line keeps is kept by every step. -/
theorem step_sat {V : Values} {P : State → Prop} (h : Kept V P P) (hp : ∀ s v, P s → P { s with ph := v })
    (hreset : ∀ s, P s → P s.restart) (haccept : ∀ s q rest, P s → P (s.accept q rest))
    (hhalt : ∀ s c, P s → c ≠ .noCause → P { s with halt := true, hcause := c })
    (s t : State) (hs : P s) (he : step s = .next t) : P t := by
  rcases step_cases s t he with ⟨-, hr⟩ | ⟨q, rest, i, -, -, hx⟩
  · exact runOp_sat _ s t hr (hreset s hs) (fun _ => h.envPoint s hs) (fun _ => h.phaseStep hp s.ph s hs)
  · exact exec_sat h hp hreset hhalt i _ t (haccept s q rest hs) hx

end Sys2Proof.Machine
end

