-- ==== Sys2Proof/Laws/PerInstr.lean ====
section
/-! SUPPORT. Statements made once per operation: the operation identifier of every word (30_encoding.md R112). -/

namespace Sys2Proof.Laws

open Sys2Proof

/-- The operation identifier the table of 30_encoding.md R112 gives an operation. -/
def opOf : Instr → BitVec 4
  | .start => 0x0
  | .stop => 0x1
  | .wrbyte _ => 0x2
  | .waitack => 0x3
  | .wrdatacmd _ => 0x4
  | .wrdispcmd _ => 0x5
  | .wrframe _ _ => 0x6
  | .todigits => 0x7
  | .dbpoll _ => 0x8
  | .ctrledge => 0x9
  | .funcedge => 0xA
  | .autoroll => 0xB
  | .refresh => 0xC
  | .cue _ => 0xD
  | .iter => 0xE

/-- `CW[11:8]` of the word of an operation is its operation identifier, for every value of its operands. -/
def OpNibble.Statement (i : Instr) : Prop := opField (encode i) = opOf i

/-- The upper four bits of a word built from an identifier and a low byte. -/
theorem opField_microWord (op : BitVec 4) (low : BitVec 8) : opField (microWord op low) = op := by
  apply BitVec.eq_of_getLsbD_eq
  intro j hj
  simp only [opField, microWord, BitVec.getLsbD_extractLsb', BitVec.getLsbD_append, hj, decide_true, Bool.true_and,
    show ¬ 8 + j < 8 by omega, if_false, Nat.add_sub_cancel_left]

theorem OpNibble.start : OpNibble.Statement (.start) :=
  opField_microWord _ _
theorem OpNibble.stop : OpNibble.Statement (.stop) :=
  opField_microWord _ _
theorem OpNibble.wrbyte (b : Byte) : OpNibble.Statement (.wrbyte b) :=
  opField_microWord _ _
theorem OpNibble.waitack : OpNibble.Statement (.waitack) :=
  opField_microWord _ _
theorem OpNibble.wrdatacmd (b : Byte) : OpNibble.Statement (.wrdatacmd b) :=
  opField_microWord _ _
theorem OpNibble.wrdispcmd (b : Byte) : OpNibble.Statement (.wrdispcmd b) :=
  opField_microWord _ _
theorem OpNibble.wrframe (k : Bool) (n : BitVec 3) : OpNibble.Statement (.wrframe k n) :=
  opField_microWord _ _
theorem OpNibble.todigits : OpNibble.Statement (.todigits) :=
  opField_microWord _ _
theorem OpNibble.dbpoll (u : Button) : OpNibble.Statement (.dbpoll u) :=
  opField_microWord _ _
theorem OpNibble.ctrledge : OpNibble.Statement (.ctrledge) :=
  opField_microWord _ _
theorem OpNibble.funcedge : OpNibble.Statement (.funcedge) :=
  opField_microWord _ _
theorem OpNibble.autoroll : OpNibble.Statement (.autoroll) :=
  opField_microWord _ _
theorem OpNibble.refresh : OpNibble.Statement (.refresh) :=
  opField_microWord _ _
theorem OpNibble.cue (p : BitVec 2) : OpNibble.Statement (.cue p) :=
  opField_microWord _ _
theorem OpNibble.iter : OpNibble.Statement (.iter) :=
  opField_microWord _ _

end Sys2Proof.Laws
end

