-- ==== Sys2Proof/Tests/Slice0.lean ====
section
/-! SUPPORT. The model's own tests: words written out from the encoding tables, one step on small states with expected
values from 95_test_vectors.md, and a witness for the premises of every statement that has premises. -/

namespace Sys2Proof.Tests

open Sys2Proof Sys2Proof.Machine

/-! ### Helpers -/

/-- The outcome is a next state on which `p` holds. -/
def nextHas (o : Host.Outcome State Fault Refusal) (p : State → Bool) : Bool :=
  match o with
  | .next t => p t
  | _ => false

/-- The outcome is the refusal `r`. -/
def refusedAs (o : Host.Outcome State Fault Refusal) (r : Refusal) : Bool :=
  match o with
  | .refused q => q == r
  | _ => false

/-- The decoder refuses the word for the reason `e`. -/
def rejects (e : DecodeError) (w : MicroWord) : Bool :=
  match decode w with
  | .error e' => e' == e
  | .ok _ => false

/-- The reset state with a framing checker attached in state `t`. -/
def checked (t : Tracker) : State := { State.reset with framing := some t }

/-- What a receiver that samples at each rise of `CLK` sees of one transaction carrying `bs`. -/
def wire (bs : List Byte) : List Bool := (bs.flatMap fun b => bitsOf b ++ [b.getLsbD 7]) ++ [false]

/-- The reset state with values on the operand buses. -/
def withFrame (ds : Vector Digit 6) : State := { State.reset with bus := ⟨0, 0x40, 0xC0, ds, 0x8F⟩ }

/-- The reset state with `A_SEC = n`. -/
def withSec (n : Nat) : State := { State.reset with bus := { OperandBus.zero with aSec := n } }

/-- A debounce instance that saw the press at tick 101, with the tick at `t`. -/
def pressSeen (t : Nat) : State :=
  { State.reset with dbCtrl := ⟨false, true, 101⟩, btnCtrl := false, tick := t }

/-! ### WellFormed: an ill-formed term for each check -/

theorem test_wf_frame_of_three_refused : (Instr.wrframe false 3).wellFormed = false := by decide
theorem test_wf_frame_of_seven_refused : (Instr.wrframe true 7).wellFormed = false := by decide
theorem test_wf_frame_of_four_to_six : ∀ k, (Instr.wrframe k 4).wellFormed && (Instr.wrframe k 5).wellFormed &&
    (Instr.wrframe k 6).wellFormed := by decide
theorem test_wf_cue_of_zero_refused : (Instr.cue 0).wellFormed = false := by decide
theorem test_wf_cue_of_one_to_three : (Instr.cue 1).wellFormed && (Instr.cue 2).wellFormed && (Instr.cue 3).wellFormed :=
  by decide

/-! ### Decode: every constructor's word, bit by bit from 30_encoding.md R112 (95_test_vectors.md V60) -/

theorem test_decode_start : decode 0b000000000000#12 = .ok .start := by decide
theorem test_decode_stop : decode 0b000100000000#12 = .ok .stop := by decide
theorem test_decode_wrbyte : decode 0b001001000000#12 = .ok (.wrbyte 0x40) ∧
    decode 0b001011111111#12 = .ok (.wrbyte 0xFF) := by decide
theorem test_decode_waitack : decode 0b001100000000#12 = .ok .waitack := by decide
theorem test_decode_wrdatacmd : decode 0b010001000000#12 = .ok (.wrdatacmd 0x40) := by decide
theorem test_decode_wrdispcmd : decode 0b010110001111#12 = .ok (.wrdispcmd 0x8F) := by decide
theorem test_decode_wrframe_dark : decode 0b011000000100#12 = .ok (.wrframe false 4) ∧
    decode 0b011000000101#12 = .ok (.wrframe false 5) ∧ decode 0b011000000110#12 = .ok (.wrframe false 6) := by decide
theorem test_decode_wrframe_blink : decode 0b011000001100#12 = .ok (.wrframe true 4) ∧
    decode 0b011000001101#12 = .ok (.wrframe true 5) ∧ decode 0b011000001110#12 = .ok (.wrframe true 6) := by decide
theorem test_decode_todigits : decode 0b011100000000#12 = .ok .todigits := by decide
theorem test_decode_dbpoll : decode 0b100000000000#12 = .ok (.dbpoll .ctrl) ∧
    decode 0b100000000001#12 = .ok (.dbpoll .func) := by decide
theorem test_decode_ctrledge : decode 0b100100000000#12 = .ok .ctrledge := by decide
theorem test_decode_funcedge : decode 0b101000000000#12 = .ok .funcedge := by decide
theorem test_decode_autoroll : decode 0b101100000000#12 = .ok .autoroll := by decide
theorem test_decode_refresh : decode 0b110000000000#12 = .ok .refresh := by decide
theorem test_decode_cue : decode 0b110100000001#12 = .ok (.cue 1) ∧ decode 0b110100000010#12 = .ok (.cue 2) ∧
    decode 0b110100000011#12 = .ok (.cue 3) := by decide
theorem test_decode_iter : decode 0b111000000000#12 = .ok .iter := by decide

/-- The refused words of V61, all but the frame lengths. -/
theorem test_decode_illegal_words :
    [0xF00#12, 0xFFF#12, 0x001#12, 0x101#12, 0x301#12, 0x701#12, 0x901#12, 0xA01#12, 0xB01#12, 0xC01#12,
      0xE01#12, 0x802#12, 0x880#12, 0xD00#12, 0xD04#12, 0xD10#12, 0x610#12, 0x684#12, 0x614#12].all
      (rejects .illegalWord) := by decide

/-- The refused frame lengths of V61. -/
theorem test_decode_frame_lengths :
    [0x600#12, 0x601#12, 0x602#12, 0x603#12, 0x607#12, 0x608#12, 0x60F#12].all (rejects .frameLength) := by decide

/-- The words of V60 are those the encoder writes. -/
theorem test_encode_words :
    [encode .start, encode .stop, encode (.wrbyte 0x40), encode .waitack, encode (.wrdatacmd 0x40),
      encode (.wrdispcmd 0x8F), encode (.wrframe true 5), encode .todigits, encode (.dbpoll .func), encode .ctrledge,
      encode .funcedge, encode .autoroll, encode .refresh, encode (.cue 3), encode .iter] =
    [0x000#12, 0x100#12, 0x240#12, 0x300#12, 0x440#12, 0x58F#12, 0x60D#12, 0x700#12, 0x801#12, 0x900#12, 0xA00#12,
      0xB00#12, 0xC00#12, 0xD03#12, 0xE00#12] := by decide

theorem test_table_word : decodeTableWord 16 0x60C = some (.wrframe true 4) ∧ decodeTableWord 16 0xF00 = none ∧
    decodeTableWord 16 0x1E00 = none := by decide

/-! ### Digit encoder (V1 to V17) -/

theorem test_todigits_125 : nextHas (exec .todigits (withSec 125)) (fun t => t.qDig == ⟨0, 2, 0, 5⟩ && !t.halt) := by
  decide
theorem test_todigits_edge :
    nextHas (exec .todigits (withSec 5999)) (fun t => t.qDig == ⟨9, 9, 5, 9⟩) ∧
    nextHas (exec .todigits (withSec 6000)) (fun t => t.halt && t.hcause.code == 3 && t.qDig == ⟨0, 0, 0, 0⟩) := by
  decide

/-! ### Serial engine (V20 to V29) -/

/-- V21. -/
theorem test_start : nextHas (exec .start State.reset) (fun t =>
    t.trace == [.clk true, .dio true, .waitUs 2, .dio false] && t.clk && !t.dio) := by decide
/-- V29: a second `START` is refused by the checker. -/
theorem test_start_twice : refusedAs (exec .start (checked .open0)) .framing := by decide

/-- V22. -/
theorem test_stop : nextHas (exec .stop { State.reset with clk := false }) (fun t =>
    t.trace == [.clk false, .waitUs 2, .dio false, .waitUs 2, .clk true, .waitUs 2, .dio true] && t.clk && t.dio) := by
  decide
/-- V29. -/
theorem test_stop_too_early : refusedAs (exec .stop (checked .sent)) .framing := by decide

/-- V23, row 0x6D: the cells in time order are 1 0 1 1 0 1 1 0. -/
theorem test_wrbyte_lowest_bit_first : nextHas (exec (.wrbyte 0x6D) State.reset) (fun t =>
    t.trace == [true, false, true, true, false, true, true, false].flatMap (fun v =>
      [.clk false, .dio v, .waitUs 3, .clk true, .waitUs 3]) &&
    t.clk && !t.dio && t.shr == 0 && t.bitc == 0) := by decide +kernel
/-- V29. -/
theorem test_wrbyte_without_start : refusedAs (exec (.wrbyte 0x40) (checked .idle)) .framing := by decide

/-- V24, for both levels of `DIO`. -/
theorem test_waitack : ∀ d, nextHas (exec .waitack { State.reset with dio := d }) (fun t =>
    t.trace == [.clk false, .waitUs 5, .clk true, .waitUs 2, .clk false] && !t.clk && t.dio == d) := by decide
/-- V29. -/
theorem test_waitack_without_byte : refusedAs (exec .waitack (checked .open0)) .framing := by decide

/-- V20. -/
theorem test_wrdatacmd : nextHas (exec (.wrdatacmd 0x40) State.reset) (fun t =>
    t.trace.length == 56 && leastDuration t.trace == 63 && risingSamples true true t.trace == wire [0x40] &&
    t.clk && t.dio) := by decide +kernel
/-- V25. -/
theorem test_wrdispcmd : nextHas (exec (.wrdispcmd 0x8F) State.reset) (fun t =>
    t.trace.length == 56 && (t.trace.filter Event.isDio).map (· == .dio true) ==
      [true, false, true, true, true, true, false, false, false, true, false, true]) := by decide +kernel

/-- V26, row 3. -/
theorem test_wrframe_bytes : nextHas (exec (.wrframe true 4) (withFrame #v[0, 2, 0, 5, 0, 0])) (fun t =>
    risingSamples true true t.trace == wire [0x40] ++ wire [0xC0, 0xBF, 0xDB, 0xBF, 0xED] ++ wire [0x8F] &&
    t.trace.length == 348 && t.idx == 4) := by decide +kernel
/-- V27: a digit of 12 halts before any event; at a position beyond `n` it is not looked at. -/
theorem test_wrframe_glyph_range :
    nextHas (exec (.wrframe false 4) (withFrame #v[0, 12, 0, 0, 0, 0])) (fun t =>
      t.halt && t.hcause.code == 4 && t.trace == []) ∧
    nextHas (exec (.wrframe false 4) (withFrame #v[0, 0, 0, 11, 12, 0])) (fun t =>
      !t.halt && t.trace.length == 348) := by decide +kernel

/-! ### Debounce (V30 to V38) -/

/-- V30, polls 4 and 5: at a difference of 20 nothing, at 21 the commit and one event. -/
theorem test_dbpoll_strict_window :
    nextHas (exec (.dbpoll .ctrl) (pressSeen 121)) (fun t => t.dbCtrl == ⟨false, true, 101⟩ && !t.run) ∧
    nextHas (exec (.dbpoll .ctrl) (pressSeen 122)) (fun t => t.dbCtrl == ⟨false, false, 101⟩ && t.run &&
      t.trace == [.tmrRun true, .secClr]) := by decide
/-- V33 and V35: a release commits silently; the difference is modular. -/
theorem test_dbpoll_release_and_wrap :
    nextHas (exec (.dbpoll .func) { State.reset with dbFunc := ⟨true, false, 200⟩, tick := 221 }) (fun t =>
      t.dbFunc == ⟨true, true, 200⟩ && t.trace == []) ∧
    nextHas (exec (.dbpoll .func)
      { State.reset with dbFunc := ⟨false, true, 0xFFFFFFF0⟩, btnFunc := false, tick := 5 }) (fun t =>
      !t.dbFunc.stb && t.mode == .shortBreak && t.trace == [.secClr]) := by decide

/-! ### Session (V40 to V47) -/

/-- V42. -/
theorem test_ctrledge_stop : nextHas (exec .ctrledge
    { State.reset with run := true, tmrRun := true, mode := .shortBreak, tgt := 300, cyc := 3, sec := 120, last := 120 })
    (fun t => t.trace == [.tmrRun false, .secClr] && !t.run && !t.tmrRun && t.mode == .focus && t.tgt == 1500 &&
      t.cyc == 0 && t.sec == 0 && t.last == 120) := by decide
/-- V43. -/
theorem test_ctrledge_timer_failure : nextHas (exec .ctrledge { State.reset with tmrFail := true }) (fun t =>
    t.trace == [.tmrRun true] && t.halt && t.hcause.code == 1 && t.run && t.tmrRun) := by decide

/-- V45, first and second start states. -/
theorem test_funcedge :
    nextHas (exec .funcedge { State.reset with cyc := 2, sec := 700, run := true }) (fun t =>
      t.mode == .shortBreak && t.cyc == 3 && t.sec == 0 && t.tgt == 300 && t.run && t.trace == [.secClr]) ∧
    nextHas (exec .funcedge { State.reset with mode := .shortBreak, tgt := 300, cyc := 5, sec := 10 }) (fun t =>
      t.mode == .longBreak && t.cyc == 0 && t.tgt == 900 && t.sec == 0 && !t.run) := by decide

/-- V46. -/
theorem test_autoroll_focus : nextHas (exec .autoroll State.reset) (fun t =>
    t.trace == [.secClr, .buz true, .waitMs 50, .buz false] && t.mode == .shortBreak && t.cyc == 1 && t.tgt == 300) := by
  decide
theorem test_autoroll_long_break :
    nextHas (exec .autoroll { State.reset with mode := .longBreak, tgt := 900 }) (fun t =>
      t.trace.length == 13 && t.mode == .focus && t.cyc == 0 && t.tgt == 1500) := by decide

/-- V47. -/
theorem test_cue_two : nextHas (exec (.cue 2) State.reset) (fun t =>
    t.trace == [.buz true, .waitMs 50, .buz false, .waitMs 50, .buz true, .waitMs 50, .buz false, .waitMs 50] &&
    !t.buz) := by decide
theorem test_cue_zero : refusedAs (exec (.cue 0) State.reset) .illegalWord := by decide

/-! ### Refresh and scheduler (V50 to V58, P5) -/

/-- V52. -/
theorem test_refresh_rollover : nextHas (exec .refresh { State.reset with sec := 1500, last := 1499, blink := true })
    (fun t => t.trace.length == 352 && t.mode == .shortBreak && t.cyc == 1 && t.tgt == 300 && t.sec == 0 &&
      t.dig == ⟨0, 0, 0, 0⟩ && !t.blink && t.last == 0) := by decide +kernel
/-- V53: a missed rollover. -/
theorem test_refresh_past_the_target : nextHas (exec .refresh { State.reset with sec := 1501, last := 1499 })
    (fun t => t.mode == .focus && t.dig == ⟨2, 5, 0, 1⟩ && t.blink && t.last == 1501 &&
      risingSamples true true t.trace == wire [0x40] ++ wire [0xC0, 0xDB, 0xED, 0xBF, 0x86] ++ wire [0x8F]) := by
  decide +kernel

/-- P5: both buttons commit in one iteration. -/
def bothPressed : State :=
  { State.reset with
    run := true, tmrRun := true, mode := .shortBreak, tgt := 300, cyc := 2, sec := 100, last := 100, blink := true
    dbCtrl := ⟨false, true, 5000⟩, dbFunc := ⟨false, true, 5000⟩, btnCtrl := false, btnFunc := false, tick := 5021 }

theorem test_iter_both_buttons : nextHas (exec .iter bothPressed) (fun t =>
    t.trace.take 3 == [.tmrRun false, .secClr, .secClr] && t.trace.length == 351 && t.mode == .shortBreak &&
    t.cyc == 1 && !t.run && t.last == 0 && !t.blink) := by decide +kernel
/-- V58. -/
theorem test_iter_idle : nextHas (exec .iter State.reset) (fun t => t == State.reset) := by decide

/-! ### The step: issued words, and the sequencer -/

theorem test_step_runs_the_placed_word :
    nextHas (step (State.reset.withFetchWord 16 0xD01)) (fun t => t.trace.length == 3 && t.issued == []) ∧
    refusedAs (step (State.reset.withFetchWord 16 0x603)) .frameLength := by decide

theorem test_step_goes_through_the_phases : nextHas (step State.reset) (fun t => t.ph.code == 1) := by decide

/-! ### Witnesses: concrete states and operands that meet the premises of each statement -/

/-- No reset is near where none is pending and nothing is still to come. -/
theorem noReset_of_quiet {s : State} (h : s.rst = none) (e : s.env = []) : s.NoReset :=
  ⟨h, by rw [e]; intro ms hms; cases hms⟩

theorem standard_valid : Config.standard.Valid :=
  ⟨by decide, by decide, by decide, by decide, by decide, by decide⟩

theorem reset_noReset : State.reset.NoReset := noReset_of_quiet rfl rfl

theorem reset_sessionOk : SessionOk State.reset :=
  ⟨standard_valid, rfl, by show 0 < 5; decide, rfl, rfl, by decide, by decide⟩

theorem witness_EncodedWordDecodesBack :
    (Instr.wrframe true 4).wellFormed = true ∧ (Instr.wrframe false 6).wellFormed = true ∧
    (Instr.cue 1).wellFormed = true ∧ (Instr.cue 3).wellFormed = true := by decide

theorem witness_DecodedWordIsItsEncoding : decode 0x604#12 = .ok (.wrframe false 4) ∧ decode 0xD01#12 = .ok (.cue 1) := by
  decide

/-- A word for each clause, at both ends of its range. -/
theorem witness_ReservedWordsAreRejectedByName :
    (BitVec.extractLsb' 8 4 0xF00#12 = 0xF#4 ∧ BitVec.extractLsb' 8 4 0xFFF#12 = 0xF#4) ∧
    (BitVec.extractLsb' 8 4 0xE01#12 ∈ [0x0#4, 0xE#4] ∧ BitVec.extractLsb' 0 8 0xE01#12 ≠ 0#8) ∧
    (BitVec.extractLsb' 8 4 0x614#12 = 0x6#4 ∧ BitVec.extractLsb' 4 4 0x614#12 ≠ 0#4) ∧
    (BitVec.extractLsb' 4 4 0x603#12 = 0#4 ∧ BitVec.extractLsb' 0 3 0x603#12 = 3#3 ∧
      BitVec.extractLsb' 0 3 0x607#12 = 7#3 ∧ BitVec.extractLsb' 0 3 0x600#12 = 0#3) ∧
    (BitVec.extractLsb' 8 4 0x802#12 = 0x8#4 ∧ BitVec.extractLsb' 1 7 0x802#12 ≠ 0#7) ∧
    (BitVec.extractLsb' 8 4 0xD00#12 = 0xD#4 ∧ BitVec.extractLsb' 0 2 0xD00#12 = 0#2 ∧
      BitVec.extractLsb' 2 6 0xD05#12 ≠ 0#6) := by decide

theorem witness_StepRunsTheDecodedWord :
    (State.reset.issueWord 0xE00).issued = [⟨0xE00, OperandBus.zero⟩] ∧ decode 0xE00#12 = .ok .iter ∧
    (State.reset.issueWord 0xF00).issued = [⟨0xF00, OperandBus.zero⟩] ∧ decode 0xF00#12 = .error .illegalWord ∧
    (State.reset.issueWord 0x607).issued = [⟨0x607, OperandBus.zero⟩] ∧ decode 0x607#12 = .error .frameLength := by
  decide

theorem witness_PlacedWordRunsNext : decodeTableWord 12 0xC00 = some .refresh ∧
    decodeTableWord 16 0 = some .start ∧ decodeTableWord 16 0xE00 = some .iter := by decide

/-- Phase 0 of the reset state completes; in phase 2 a counter of 6000 halts. -/
theorem witness_SequencerRunsThePhaseAndAdvances :
    (State.reset.issued = [] ∧ State.reset.NoReset ∧ State.reset.halt = false ∧
      exec State.reset.ph.instr State.reset = .next State.reset) ∧
    (State.NoReset { State.reset with ph := .refresh, sec := 6000, last := 5999 } ∧
      nextHas (exec (Phase.instr .refresh) { State.reset with ph := .refresh, sec := 6000, last := 5999 })
        (fun t => t.halt) = true) :=
  ⟨⟨rfl, reset_noReset, rfl, rfl⟩, noReset_of_quiet rfl rfl, by decide⟩

theorem witness_FramingTrackerTable : Tracker.open1.next .stop = some .idle ∧ Tracker.open1.next .ack = none := by decide

/-- Without a checker, with one that accepts, and with one that refuses, for each of the four primitives. -/
theorem witness_StartSendsTheStartCondition :
    State.reset.halt = false ∧ State.reset.rst = none ∧ trackNext State.reset.framing .start = some none ∧
    trackNext (checked .idle).framing .start = some (some .open0) ∧
    (checked .open1).halt = false ∧ (checked .open1).rst ≠ some 0 ∧ trackNext (checked .open1).framing .start = none := by
  decide
theorem witness_StopSendsTheStopCondition :
    (checked .open1).halt = false ∧ (checked .open1).rst = none ∧
    trackNext (checked .open1).framing .stop = some (some .idle) ∧ trackNext State.reset.framing .stop = some none ∧
    trackNext (checked .idle).framing .stop = none := by decide
theorem witness_WriteByteSendsBitsLowestFirst :
    (checked .open0).halt = false ∧ (checked .open0).rst = none ∧
    trackNext (checked .open0).framing .byte = some (some .sent) ∧ trackNext State.reset.framing .byte = some none ∧
    trackNext (checked .sent).framing .byte = none := by decide
theorem witness_WaitAckClocksTheSlotUnread :
    (checked .sent).halt = false ∧ (checked .sent).rst = none ∧
    trackNext (checked .sent).framing .ack = some (some .open1) ∧ trackNext State.reset.framing .ack = some none ∧
    trackNext (checked .open1).framing .ack = none := by decide

theorem witness_CommandsSendOneByteTransactions :
    (State.reset.halt = false ∧ State.reset.rst = none ∧ State.reset.framing = none) ∧
    (checked .idle).framing = some .idle ∧
    ((checked .open0).rst ≠ some 0 ∧ (checked .open0).framing ≠ none ∧ (checked .open0).framing ≠ some .idle) := by decide

theorem witness_CommandsEqualTheirExpansion :
    State.reset.halt = false ∧ State.reset.rst = none ∧ State.reset.framing = none ∧
    (checked .idle).framing = some .idle := by decide

/-- Digit counts 3, 4, 6 and 7, digit values 11 and 12, and a checker in `SENT`. -/
theorem witness_WriteFrameSendsThreeTransactions :
    (withFrame #v[0, 0, 0, 11, 12, 0]).halt = false ∧ (withFrame #v[0, 0, 0, 11, 12, 0]).rst = none ∧
    (withFrame #v[0, 0, 0, 11, 12, 0]).framing = none ∧
    (3#3).toNat < Config.standard.nMin ∧ Config.standard.nMax < (7#3).toNat ∧
    Config.standard.nMin ≤ (4#3).toNat ∧ (6#3).toNat ≤ Config.standard.nMax ∧
    (∀ d ∈ (withFrame #v[0, 0, 0, 11, 12, 0]).bus.fDig.toList.take (4#3).toNat, d.toNat < 12) ∧
    (∃ d ∈ (withFrame #v[0, 0, 0, 11, 12, 0]).bus.fDig.toList.take (5#3).toNat, 12 ≤ d.toNat) ∧
    ((checked .sent).rst ≠ some 0 ∧ (checked .sent).framing ≠ none ∧ (checked .sent).framing ≠ some .idle) := by decide

theorem witness_WriteFrameEqualsItsExpansion :
    (withFrame #v[0, 2, 0, 11, 15, 15]).halt = false ∧ (withFrame #v[0, 2, 0, 11, 15, 15]).rst = none ∧
    (withFrame #v[0, 2, 0, 11, 15, 15]).framing = none ∧
    (withFrame #v[0, 2, 0, 11, 15, 15]).cfg.nMin ≤ (4#3).toNat ∧
    (4#3).toNat ≤ (withFrame #v[0, 2, 0, 11, 15, 15]).cfg.nMax ∧ (4#3).toNat ≤ 6 ∧
    (∀ d ∈ (withFrame #v[0, 2, 0, 11, 15, 15]).bus.fDig.toList.take (4#3).toNat, d.toNat < 12) := by decide

theorem witness_ToDigitsEncodesTheSeconds :
    (withSec 5999).halt = false ∧ (withSec 5999).rst ≠ some 0 ∧
    (withSec 5999).bus.aSec % 2 ^ (withSec 5999).cfg.wSec < 6000 ∧
    6000 ≤ (withSec 6000).bus.aSec % 2 ^ (withSec 6000).cfg.wSec := by decide +kernel

theorem witness_DigitsOfSeconds : 5999 ≤ 5999 ∧ 0 ≤ 5999 := by decide

/-- The press of V30 one tick too early, and at the first tick at which it commits. -/
theorem witness_PollFollowsTheTransitionRule :
    ((pressSeen 121).halt = false ∧ (pressSeen 121).NoReset ∧ (pressSeen 121).envMove.btn .ctrl = false ∧
      ¬ (pressSeen 121).cfg.dbThreshold < (121 + (2 ^ 32 - 101 % 2 ^ 32)) % 2 ^ 32) ∧
    ((pressSeen 122).halt = false ∧ (pressSeen 122).NoReset ∧ (pressSeen 122).envMove.btn .ctrl = Config.standard.active ∧
      (pressSeen 122).cfg.dbThreshold < (122 + (2 ^ 32 - 101 % 2 ^ 32)) % 2 ^ 32 ∧
      (pressSeen 122).envMove.btn .ctrl ≠ ((pressSeen 122).db .ctrl).stb) :=
  ⟨⟨rfl, noReset_of_quiet rfl rfl, rfl, by decide +kernel⟩,
    rfl, noReset_of_quiet rfl rfl, rfl, by decide +kernel, by decide⟩

theorem witness_ChangeCannotCommitAtOnce :
    false ≠ (⟨true, true, 0⟩ : Debounce).raw ∧
    ((⟨false, true, 101⟩ : Debounce).poll Config.standard false 122).1.stb ≠ (⟨false, true, 101⟩ : Debounce).stb := by
  decide +kernel

theorem witness_SustainedPressFiresExactlyOnce :
    (⟨true, true, 0⟩ : Debounce).raw = !Config.standard.active ∧
    (⟨true, true, 0⟩ : Debounce).stb = !Config.standard.active := by decide

theorem witness_ShortPressFiresNothing :
    (⟨true, true, 0⟩ : Debounce).raw = !Config.standard.active ∧
    (⟨true, true, 0⟩ : Debounce).stb = !Config.standard.active ∧
    ∀ t ∈ [309, 320], subMod Config.standard.wTick t 300 ≤ Config.standard.dbThreshold := by decide +kernel

theorem witness_ControlEdgeResetsTheSession :
    (State.reset.halt = false ∧ State.reset.NoReset ∧ State.reset.tmrFail = false) ∧
    (State.NoReset { State.reset with tmrFail := true } ∧
      (State.envMove { State.reset with tmrFail := true }).tmrFail = true) :=
  ⟨⟨rfl, reset_noReset, rfl⟩, noReset_of_quiet rfl rfl, rfl⟩

theorem witness_TransitionTable : Config.standard.cycVariant = .atFocusExit ∧ Config.standard.Valid ∧
    4 < Config.standard.cycLimit ∧ Config.standard.cycLimit ≤ 5 :=
  ⟨rfl, standard_valid, by decide, by decide⟩

theorem witness_FunctionEdgeRollsOverSilently : State.reset.halt = false ∧ State.reset.NoReset := ⟨rfl, reset_noReset⟩
theorem witness_AutoRollPlaysTheCueOfTheModeLeft : State.reset.halt = false ∧ State.reset.NoReset := ⟨rfl, reset_noReset⟩
theorem witness_CuePulsesTheBuzzer : State.reset.halt = false ∧ State.reset.rst = none ∧ State.reset.rst ≠ some 0 := by
  decide

theorem witness_LongBreakAfterCycLimitCycles :
    Config.standard.Valid ∧ Config.standard.cycVariant = .atFocusExit ∧ 4 < Config.standard.cycLimit :=
  ⟨standard_valid, rfl, by decide⟩

theorem witness_CycleVariantsAreEquivalent :
    (Config.Valid { Config.standard with cycVariant := .atShortExit } ∧ 3 + 1 < Config.standard.cycLimit ∧
      Config.standard.cycLimit ≤ 4 + 1 ∧ 4 < 2 ^ Config.standard.wCyc - 1) ∧
    (State.reset.cfg.Valid ∧ State.reset.cfg.cycVariant = .atFocusExit ∧
      cycInRange State.reset.cfg State.reset.mode State.reset.cyc ∧ step State.reset = .next { State.reset with ph := .funcPoll }) ∧
    refusedAs (step (State.reset.issueWord 0xF00)) .illegalWord = true :=
  ⟨⟨⟨by decide, by decide, by decide, by decide, by decide, by decide⟩, by decide, by decide, by decide⟩,
    ⟨standard_valid, rfl, reset_sessionOk.counter, rfl⟩, by decide⟩

/-- An unchanged sample; a changed one of 5999 and one of 6000; one that equals the target. -/
theorem witness_RefreshFollowsTheSecond :
    (State.reset.halt = false ∧ State.reset.NoReset ∧ State.reset.envMove.sec = State.reset.last ∧
      State.reset.cfg.nBuf = 4 ∧ FrameFits State.reset.cfg ∧ State.reset.framing = none) ∧
    (∀ n ∈ [5999, 6000, 1500], State.NoReset { State.reset with sec := n } ∧
      (State.envMove { State.reset with sec := n }).sec ≠ State.reset.last) ∧
    (State.envMove { State.reset with sec := 1500 }).sec = State.reset.tgt :=
  ⟨⟨rfl, reset_noReset, rfl, rfl, by decide, rfl⟩, fun n hn => ⟨noReset_of_quiet rfl rfl, by revert n; decide⟩, rfl⟩

/-- An iteration that completes, one that halts in the control poll, one that halts in the refresh. -/
theorem witness_IterationRunsThreePhasesInOrder :
    (State.reset.halt = false ∧ State.reset.NoReset ∧ FrameFits State.reset.cfg ∧ State.reset.framing = none ∧
      nextHas (exec .iter State.reset) (fun t => !t.halt) = true) ∧
    (State.NoReset { pressSeen 122 with tmrFail := true } ∧
      nextHas (exec .iter { pressSeen 122 with tmrFail := true }) (fun t => t.halt && t.ph.code == 0) = true) ∧
    (State.NoReset { State.reset with sec := 6000 } ∧
      nextHas (exec .iter { State.reset with sec := 6000 }) (fun t => t.halt && t.ph.code == 2) = true) :=
  ⟨⟨rfl, reset_noReset, by decide, rfl, by decide⟩, ⟨noReset_of_quiet rfl rfl, by decide⟩,
    noReset_of_quiet rfl rfl, by decide⟩

theorem witness_IdleIterationChangesNothing :
    State.reset.halt = false ∧ State.reset.rst = none ∧ State.reset.env = [] ∧
    State.reset.dbCtrl.raw = State.reset.btnCtrl ∧ State.reset.dbCtrl.stb = State.reset.btnCtrl ∧
    State.reset.dbFunc.raw = State.reset.btnFunc ∧ State.reset.dbFunc.stb = State.reset.btnFunc ∧
    State.reset.sec = State.reset.last := by decide

/-- A press is seen (`RAW` and `CHG` change, nothing fires), and in the same iteration a release commits silently. -/
def bouncing : State :=
  { State.reset with btnCtrl := false, tick := 221, dbFunc := ⟨true, false, 200⟩ }

theorem witness_QuietIterationEmitsNothing :
    bouncing.halt = false ∧ bouncing.NoReset ∧ bouncing.ph = .ctrlPoll ∧
    bouncing.dbCtrl.poll bouncing.cfg bouncing.envMove.btnCtrl bouncing.envMove.envMove.tick =
      (⟨false, true, 221⟩, false) ∧
    bouncing.dbFunc.poll bouncing.cfg bouncing.btnFunc bouncing.tick = (⟨true, true, 200⟩, false) ∧
    bouncing.envMove.sec = bouncing.last :=
  ⟨rfl, noReset_of_quiet rfl rfl, rfl, by decide +kernel, by decide +kernel, rfl⟩

theorem witness_IterationIsThreeSequencerSteps :
    State.reset.issued = [] ∧ State.reset.ph = .ctrlPoll ∧ State.reset.halt = false ∧ State.reset.NoReset ∧
    step State.reset = .next { State.reset with ph := .funcPoll } ∧
    step { State.reset with ph := .funcPoll } = .next { State.reset with ph := .refresh } ∧
    step { State.reset with ph := .refresh } = .next State.reset :=
  ⟨rfl, rfl, rfl, reset_noReset, rfl, rfl, rfl⟩

theorem witness_ControlButtonComesBeforeFunctionButton :
    bothPressed.cfg.Valid ∧ bothPressed.cfg.cycVariant = .atFocusExit ∧ bothPressed.halt = false ∧
    bothPressed.rst = none ∧ bothPressed.env = [] ∧ bothPressed.tmrFail = false ∧
    (∀ u, bothPressed.btn u = bothPressed.cfg.active ∧ (bothPressed.db u).raw = bothPressed.cfg.active ∧
      (bothPressed.db u).stb = !bothPressed.cfg.active ∧
      bothPressed.cfg.dbThreshold < subMod bothPressed.cfg.wTick bothPressed.tick (bothPressed.db u).chg) ∧
    FrameFits bothPressed.cfg ∧ bothPressed.framing = none :=
  ⟨standard_valid, rfl, rfl, rfl, rfl, rfl, fun u => by cases u <;> decide +kernel, by decide, rfl⟩

/-- A Focus that has just begun to run. -/
def running : State := { State.reset with run := true, tmrRun := true }

theorem witness_FocusRollsOverAfterItsDuration :
    SessionOk running ∧ FrameFits running.cfg ∧ running.cfg.cycVariant = .atFocusExit ∧ running.halt = false ∧
    running.rst = none ∧ running.framing = none ∧ running.mode = .focus ∧ running.cyc = 0 ∧ running.run = true ∧
    running.sec = 0 ∧ running.last = 0 ∧
    (∀ u, running.btn u = !running.cfg.active ∧ (running.db u).raw = !running.cfg.active ∧
      (running.db u).stb = !running.cfg.active) ∧ 1499 < running.cfg.tFocus :=
  ⟨⟨standard_valid, rfl, by show 0 < 5; decide, rfl, rfl, by decide, by decide⟩, by decide, rfl, rfl, rfl, rfl, rfl, rfl,
    rfl, rfl, rfl, fun u => by cases u <;> decide, by decide⟩

theorem witness_SessionInvariantIsKept :
    SessionOk State.reset ∧ step State.reset = .next { State.reset with ph := .funcPoll } := ⟨reset_sessionOk, rfl⟩

theorem witness_SessionInvariantHoldsAtReset : Config.standard.Valid := standard_valid

theorem witness_WidthsAreKept : State.reset.cfg.Valid ∧ WidthsOk State.reset ∧
    step State.reset = .next { State.reset with ph := .funcPoll } :=
  ⟨standard_valid, ⟨by decide, by decide, by decide, by decide, by decide, fun u => by cases u <;> decide⟩, rfl⟩

theorem witness_SequencerLeavesTheBusIdle : State.reset.issued = [] ∧ State.reset.LinesIdle ∧
    step State.reset = .next { State.reset with ph := .funcPoll } := ⟨rfl, by decide, rfl⟩

theorem witness_LinesFollowTheFramingChecker : (checked .idle).LinesTracked ∧
    nextHas (step ((checked .idle).withFetchWord 16 0x000)) (fun t => t.framing == some .open0) = true :=
  ⟨⟨rfl, rfl⟩, by decide⟩

theorem witness_WireOperationsLeaveTheSessionAlone :
    State.reset.rst = none ∧ State.reset.halt = false ∧ nextHas (exec .start State.reset) (fun _ => true) = true := by
  decide

theorem witness_EnvironmentMovesOnlyItsOwn :
    (running.cfg.secTickGated = true ∧ running.tmrRun = true) ∧
    (State.reset.cfg.secTickGated = true ∧ State.reset.tmrRun = false) ∧
    State.reset.rst = none ∧ ({ State.reset with rst := some 7 } : State).rst = some 7 := by decide

/-- The halted state of V43. -/
def halted : State :=
  { State.reset with run := true, tmrRun := true, halt := true, hcause := .timerStart, tmrFail := true }

theorem witness_HaltedStateIsAbsorbing : halted.halt = true ∧ halted.NoReset ∧ halted.issued = [] :=
  ⟨rfl, noReset_of_quiet rfl rfl, rfl⟩

/-- V72: reset from a halt. -/
theorem witness_OnlyResetLeavesTheHaltedState :
    halted.halt = true ∧ nextHas (step { halted with rst := some 0 }) (fun t => !t.halt && t.hcause.code == 0) = true := by
  decide

theorem witness_DueResetComesFirst : ({ halted with rst := some 0 } : State).rst = some 0 := rfl

/-- A cue of one pulse has three events: a reset after none, after two and after three of them. -/
theorem witness_ResetCutsAnOperationShort :
    State.reset.rst = none ∧ State.reset.halt = false ∧
    nextHas (exec (.cue 1) State.reset) (fun t => !t.halt && t.trace.length == 3) = true ∧
    (∀ k ∈ [0, 1, 2], nextHas (exec (.cue 1) { State.reset with rst := some k })
      (fun t => t.trace == [] && (t.pastRuns.map List.length) == [k]) = true) ∧
    nextHas (exec (.cue 1) { State.reset with rst := some 3 }) (fun t => t.trace.length == 3 && t.rst == some 0) = true := by
  decide

/-- A step that has something to do: the control button's press commits before the first second. -/
theorem witness_NothingIsDrawnAfterReset :
    (∀ m ∈ [[EnvMove.msTick], [.btn .ctrl false, .tmrFail true]].flatten, m.isRst = false ∧ m.isSecTick = false) ∧
    BeforeFirstSecond (pressSeen 122) ∧
    nextHas (step (pressSeen 122)) (fun t => t.run && t.trace == [.tmrRun true, .secClr]) = true :=
  ⟨by decide, ⟨rfl, noReset_of_quiet rfl rfl, (fun _ h => by cases h), rfl, rfl⟩, by decide⟩

theorem witness_SoundTimerNeverHalts :
    State.reset.issued = [] ∧ State.reset.halt = false ∧ State.reset.TimerSound ∧ State.reset.secReach < 6000 ∧
    step State.reset = .next { State.reset with ph := .funcPoll } :=
  ⟨rfl, rfl, ⟨rfl, fun _ h => by cases h⟩, by decide, rfl⟩

end Sys2Proof.Tests
end

namespace Sys2Proof.Proofs

open Sys2Proof Sys2Proof.Machine

/-! ### The debounce transition rule: its two steps (42_debounce.md R171) -/

/-- A sample equal to `RAW[u]` does not restart the settle window. -/
@[simp] theorem observe_of_eq_raw (d : Debounce) (t : Nat) : d.observe d.raw t = d := by
  simp [Debounce.observe]

/-- Step 1 overwrites the change tick together with `RAW[u]`. -/
theorem observe_of_ne_raw (d : Debounce) {r : Bool} (t : Nat) (h : r ≠ d.raw) : d.observe r t = ⟨r, d.stb, t⟩ := by
  simp [Debounce.observe, h]

/-- Step 2 has an effect only where the sample differs from `STB[u]`. -/
@[simp] theorem commits_stb (c : Config) (d : Debounce) (t : Nat) : commits c d d.stb t = false := by
  simp [commits]

/-! ### An instance at rest, `RAW[u] = STB[u]` (10_state.md R42) -/

/-- A poll that samples the resting level changes nothing and fires nothing. -/
theorem poll_rest_same (c : Config) (v : Bool) (x t : Nat) : Debounce.poll c ⟨v, v, x⟩ v t = (⟨v, v, x⟩, false) := by
  have hobserve : Debounce.observe ⟨v, v, x⟩ v t = ⟨v, v, x⟩ := observe_of_eq_raw ⟨v, v, x⟩ t
  have hcommits : commits c ⟨v, v, x⟩ v t = false := commits_stb c ⟨v, v, x⟩ t
  simp [Debounce.poll, hobserve, hcommits]

/-- A poll that samples the other level writes the change tick in step 1, before step 2 reads it. -/
theorem poll_rest_changed (c : Config) {v r : Bool} (x y t : Nat) (h : r ≠ v) :
    Debounce.poll c ⟨v, v, x⟩ r t = Debounce.poll c ⟨v, v, y⟩ r t := by
  simp only [Debounce.poll, observe_of_ne_raw ⟨v, v, x⟩ t h, observe_of_ne_raw ⟨v, v, y⟩ t h]

/-- Settles O27, by induction on the polls: the change tick is carried along while the samples are the resting level, and
the first other sample makes the two instances equal. -/
theorem resetChangeTickIsUnobservable : Obligations.ResetChangeTickIsUnobservable := by
  intro c v x y ps
  induction ps with
  | nil => exact ⟨rfl, rfl, rfl⟩
  | cons p ps ih =>
    obtain ⟨r, t⟩ := p
    by_cases h : r = v
    case pos =>
      subst h
      obtain ⟨hfired, hstb, hraw⟩ := ih
      simp only [pollAll, poll_rest_same]
      exact ⟨congrArg (false :: ·) hfired, hstb, hraw⟩
    case neg =>
      simp only [pollAll, poll_rest_changed c x y t h, and_self]

/-! ### The reset state (10_state.md R41) -/

/-- Both debounce instances are at rest at the level that is not pressed. -/
@[simp] theorem resetWith_db (c : Config) (u : Button) : (State.resetWith c).db u = ⟨!c.active, !c.active, 0⟩ := by
  cases u <;> rfl

/-- Settles O52: each register and port is read off `State.resetWith`, each default off `Config.standard`. -/
theorem resetValues : Obligations.ResetValues := by
  refine ⟨fun c => ?_, rfl, rfl, rfl, rfl, rfl⟩
  exact ⟨rfl, rfl, rfl, rfl, rfl, rfl, rfl, resetWith_db c, rfl, rfl, rfl, rfl, rfl, rfl, rfl, rfl, rfl, rfl, rfl, rfl, rfl⟩

end Sys2Proof.Proofs

namespace Sys2Proof.Proofs

open Sys2Proof Sys2Proof.Machine

/-! ### What a sequence of events does on the two wires (30_encoding.md R96) -/

/-- The events `es`, from the levels `x` of `CLK` and `DIO`, leave the levels `y`; meanwhile `DIO` makes the moves `ms`
at `CLK` high, and a receiver samples `rs` at the rises of `CLK`. -/
structure WireEffect (x : Bool × Bool) (es : List Event) (y : Bool × Bool) (ms rs : List Bool) : Prop where
  levels : levelsAfter x es = y
  moves : dioMovesWhileHigh x.1 x.2 es = ms
  samples : risingSamples x.1 x.2 es = rs

theorem levelsAfter_append (x : Bool × Bool) (es fs : List Event) :
    levelsAfter x (es ++ fs) = levelsAfter (levelsAfter x es) fs := by
  induction es generalizing x with
  | nil => rfl
  | cons e es ih => cases e <;> exact ih _

theorem dioMovesWhileHigh_append (x : Bool × Bool) (es fs : List Event) :
    dioMovesWhileHigh x.1 x.2 (es ++ fs) = dioMovesWhileHigh x.1 x.2 es ++
      dioMovesWhileHigh (levelsAfter x es).1 (levelsAfter x es).2 fs := by
  induction es generalizing x with
  | nil => rfl
  | cons e es ih =>
    cases e
    case clk v => exact ih (v, x.2)
    case dio v =>
      have htail := ih (x.1, v)
      simp only [List.cons_append, dioMovesWhileHigh, levelsAfter]
      split
      · exact congrArg (v :: ·) htail
      · exact htail
    all_goals exact ih x

theorem risingSamples_append (x : Bool × Bool) (es fs : List Event) :
    risingSamples x.1 x.2 (es ++ fs) = risingSamples x.1 x.2 es ++
      risingSamples (levelsAfter x es).1 (levelsAfter x es).2 fs := by
  induction es generalizing x with
  | nil => rfl
  | cons e es ih =>
    cases e
    case clk v =>
      have htail := ih (v, x.2)
      simp only [List.cons_append, risingSamples, levelsAfter]
      split
      · exact congrArg (x.2 :: ·) htail
      · exact htail
    case dio v => exact ih (x.1, v)
    all_goals exact ih x

namespace WireEffect

theorem nil (x : Bool × Bool) : WireEffect x [] x [] [] := ⟨rfl, rfl, rfl⟩

theorem append {x y z : Bool × Bool} {es fs : List Event} {ms ms' rs rs' : List Bool}
    (h : WireEffect x es y ms rs) (h' : WireEffect y fs z ms' rs') :
    WireEffect x (es ++ fs) z (ms ++ ms') (rs ++ rs') := by
  obtain ⟨rfl, rfl, rfl⟩ := h
  obtain ⟨rfl, rfl, rfl⟩ := h'
  exact ⟨levelsAfter_append _ _ _, dioMovesWhileHigh_append _ _ _, risingSamples_append _ _ _⟩

/-- Pieces that each give back the levels they begin with. -/
theorem flatMap {α : Type} {x : Bool × Bool} {f : α → List Event} {m r : α → List Bool}
    (h : ∀ a, WireEffect x (f a) x (m a) (r a)) (as : List α) :
    WireEffect x (as.flatMap f) x (as.flatMap m) (as.flatMap r) := by
  induction as with
  | nil => exact nil x
  | cons a as ih => simpa only [List.flatMap_cons] using (h a).append ih

end WireEffect

/-! Every symbol but `S` does the same from any levels, since it lowers `CLK` first. -/

theorem wireEffect_symS (c : Config) : WireEffect (true, true) (symS c) (true, false) [false] [] := ⟨rfl, rfl, rfl⟩

theorem wireEffect_symBit (c : Config) (v : Bool) (x : Bool × Bool) : WireEffect x (symBit c v) (true, v) [] [v] :=
  ⟨rfl, by simp [symBit, dioMovesWhileHigh], by simp [symBit, risingSamples]⟩

theorem wireEffect_symByte (c : Config) (b : Byte) (x : Bool × Bool) :
    WireEffect x (symByte c b) (true, b.getLsbD 7) [] (bitsOf b) :=
  have bit := wireEffect_symBit c
  (bit _ x).append (bit _ _) |>.append (bit _ _) |>.append (bit _ _) |>.append (bit _ _) |>.append (bit _ _)
    |>.append (bit _ _) |>.append (bit _ _)

theorem wireEffect_symA (c : Config) (x : Bool × Bool) : WireEffect x (symA c) (false, x.2) [] [x.2] :=
  ⟨rfl, by simp [symA, dioMovesWhileHigh], by simp [symA, risingSamples]⟩

theorem wireEffect_symP (c : Config) (x : Bool × Bool) : WireEffect x (symP c) (true, true) [true] [false] :=
  ⟨rfl, by simp [symP, dioMovesWhileHigh], by simp [symP, risingSamples]⟩

/-- `DIO` keeps bit 7 of the byte through the acknowledge slot, so that the ninth sample is bit 7 again. -/
theorem wireEffect_ackedByte (c : Config) (b : Byte) (x : Bool × Bool) :
    WireEffect x (symByte c b ++ symA c) (false, b.getLsbD 7) [] (bitsOf b ++ [b.getLsbD 7]) :=
  (wireEffect_symByte c b x).append (wireEffect_symA c _)

theorem wireEffect_ackedBytes (c : Config) (bs : List Byte) (x : Bool × Bool) :
    ∃ y, WireEffect x (ackedBytes c bs) y [] (bs.flatMap fun b => bitsOf b ++ [b.getLsbD 7]) := by
  induction bs generalizing x with
  | nil => exact ⟨x, WireEffect.nil x⟩
  | cons b bs ih =>
    obtain ⟨y, hrest⟩ := ih (false, b.getLsbD 7)
    exact ⟨y, (wireEffect_ackedByte c b x).append hrest⟩

/-- A transaction begins and ends with the bus idle: the fall of `DIO` in `S`, the bytes, the rise of `DIO` in `P`. -/
theorem wireEffect_transaction (c : Config) (bs : List Byte) :
    WireEffect (true, true) (transaction c bs) (true, true) [false, true]
      (bs.flatMap (fun b => bitsOf b ++ [b.getLsbD 7]) ++ [false]) := by
  obtain ⟨y, hbytes⟩ := wireEffect_ackedBytes c bs (true, false)
  exact ((wireEffect_symS c).append hbytes).append (wireEffect_symP c y)

/-- Settles O20: what one transaction does from an idle bus, repeated along the list. -/
theorem transactionOnTheWires : Obligations.TransactionOnTheWires := by
  intro c ts b v x
  obtain ⟨hlevels, hmoves, hsamples⟩ := WireEffect.flatMap (wireEffect_transaction c) ts
  have hnoDio : ∀ e ∈ symA c, e.isDio = false := by simp [symA, Event.isDio]
  exact ⟨hlevels, hmoves, hsamples, rfl, (wireEffect_ackedByte c b x).levels, rfl, rfl, rfl, hnoDio⟩

/-! ### The least durations of the wire formats (30_encoding.md R97) -/

@[simp] theorem leastDuration_append (es fs : List Event) :
    leastDuration (es ++ fs) = leastDuration es + leastDuration fs := by
  simp [leastDuration]

@[simp] theorem leastDuration_symS (c : Config) : leastDuration (symS c) = c.tStartUs := by
  simp [leastDuration, symS, Event.leastUs]

@[simp] theorem leastDuration_symBit (c : Config) (v : Bool) :
    leastDuration (symBit c v) = c.tBitLoUs + c.tBitHiUs := by
  simp [leastDuration, symBit, Event.leastUs]

@[simp] theorem leastDuration_symByte (c : Config) (b : Byte) :
    leastDuration (symByte c b) = 8 * (c.tBitLoUs + c.tBitHiUs) := by
  simp only [symByte, leastDuration_append, leastDuration_symBit]
  omega

@[simp] theorem leastDuration_symA (c : Config) : leastDuration (symA c) = c.tAckLoUs + c.tAckHiUs := by
  simp [leastDuration, symA, Event.leastUs]

@[simp] theorem leastDuration_symP (c : Config) : leastDuration (symP c) = 3 * c.tStopUs := by
  simp only [leastDuration, symP, Event.leastUs, List.map_cons, List.map_nil, List.sum_cons, List.sum_nil]
  omega

/-- Each byte costs its eight bit cells and its acknowledge slot, 55 µs at the defaults. -/
theorem leastDuration_ackedBytes (bs : List Byte) : leastDuration (ackedBytes Config.standard bs) = 55 * bs.length := by
  induction bs with
  | nil => rfl
  | cons b bs ih =>
    have hbyte : leastDuration (symByte Config.standard b ++ symA Config.standard) = 55 := by
      simp [Config.standard]
    calc leastDuration (ackedBytes Config.standard (b :: bs))
        = leastDuration (symByte Config.standard b ++ symA Config.standard) +
            leastDuration (ackedBytes Config.standard bs) := leastDuration_append _ _
      _ = 55 * (b :: bs).length := by rw [hbyte, ih, List.length_cons]; omega

theorem leastDuration_transaction (bs : List Byte) :
    leastDuration (transaction Config.standard bs) = 55 * bs.length + 8 := by
  have hstart : leastDuration (symS Config.standard) = 2 := leastDuration_symS _
  have hstop : leastDuration (symP Config.standard) = 6 := leastDuration_symP _
  rw [transaction, leastDuration_append, leastDuration_append, hstart, leastDuration_ackedBytes, hstop]
  omega

theorem leastDuration_frameEvents (k : Bool) (dcmd addr : Byte) (ds : List Digit) (disp : Byte) :
    leastDuration (frameEvents Config.standard k dcmd addr ds disp) = 55 * ds.length + 189 := by
  simp only [frameEvents, leastDuration_append, leastDuration_transaction, List.length_cons, List.length_map,
    List.length_nil]
  omega

/-- Settles O19: the symbols by their waits, the formats by the number of bytes in each transaction. -/
theorem wireFormatMinimumDurations : Obligations.WireFormatMinimumDurations := by
  intro k b dcmd addr disp ds v
  refine ⟨leastDuration_symS _, leastDuration_symBit _ v, leastDuration_symByte _ b, leastDuration_symA _,
    leastDuration_symP _, leastDuration_transaction [b], ?_, leastDuration_frameEvents k dcmd addr ds disp⟩
  rw [leastDuration_transaction, List.length_cons, List.length_map]
  omega

/-! ### The reserved words (30_encoding.md R114) -/

/-- A field of the low byte is the same field of the word. -/
theorem extractLsb'_lowField (w : MicroWord) {i n : Nat} (h : i + n ≤ 8) :
    (lowField w).extractLsb' i n = w.extractLsb' i n := by
  simp [lowField, BitVec.extractLsb'_extractLsb'_of_le h]

/-! The format each operation identifier selects. -/

theorem decode_of_op_reserved {w : MicroWord} (h : opField w = 0xF#4) : decode w = .error .illegalWord := by
  simp [decode, h]

theorem decode_of_op_formatZ {w : MicroWord}
    (h : opField w ∈ [0x0#4, 0x1#4, 0x3#4, 0x7#4, 0x9#4, 0xA#4, 0xB#4, 0xC#4, 0xE#4]) :
    ∃ i, decode w = decodeZ i (lowField w) := by
  simp only [List.mem_cons, List.not_mem_nil, or_false] at h
  rcases h with h | h | h | h | h | h | h | h | h <;> (rw [decode, h]; exact ⟨_, rfl⟩)

theorem decode_of_op_formatF {w : MicroWord} (h : opField w = 0x6#4) : decode w = decodeF (lowField w) := by
  simp [decode, h]

theorem decode_of_op_formatU {w : MicroWord} (h : opField w = 0x8#4) : decode w = decodeU (lowField w) := by
  simp [decode, h]

theorem decode_of_op_formatC {w : MicroWord} (h : opField w = 0xD#4) : decode w = decodeC (lowField w) := by
  simp [decode, h]

/-! What each format refuses. -/

theorem decodeZ_of_low_ne_zero (i : Instr) {low : BitVec 8} (h : low ≠ 0#8) : decodeZ i low = .error .illegalWord :=
  if_neg h

theorem decodeF_of_high_ne_zero {low : BitVec 8} (h : low.extractLsb' 4 4 ≠ 0#4) :
    decodeF low = .error .illegalWord :=
  if_pos h

theorem decodeF_of_bad_count {low : BitVec 8} (hhigh : low.extractLsb' 4 4 = 0#4)
    (hcount : low.extractLsb' 0 3 ∈ [0#3, 1#3, 2#3, 3#3, 7#3]) : decodeF low = .error .frameLength := by
  have hrange : ∀ n ∈ [0#3, 1#3, 2#3, 3#3, 7#3], ¬ (4 ≤ n.toNat ∧ n.toNat ≤ 6) := by decide
  rw [decodeF, if_neg (not_not_intro hhigh), if_neg (hrange _ hcount)]

theorem decodeU_of_high_ne_zero {low : BitVec 8} (h : low.extractLsb' 1 7 ≠ 0#7) :
    decodeU low = .error .illegalWord :=
  if_pos h

theorem decodeC_of_high_ne_zero {low : BitVec 8} (h : low.extractLsb' 2 6 ≠ 0#6) :
    decodeC low = .error .illegalWord :=
  if_pos h

theorem decodeC_of_no_pulse {low : BitVec 8} (h : low.extractLsb' 0 2 = 0#2) : decodeC low = .error .illegalWord := by
  rw [decodeC, if_pos h, ite_self]

/-- Settles O3, format by format: the identifier selects the format, and the format refuses the low byte. -/
theorem reservedWordsAreRejectedByName : Obligations.ReservedWordsAreRejectedByName := by
  intro w
  refine ⟨decode_of_op_reserved, fun hop hlow => ?formatZ, fun hop hhigh => ?formatF, fun hop hhigh hcount => ?count,
    fun hop hhigh => ?formatU, fun hop hbad => ?formatC⟩
  case formatZ =>
    obtain ⟨i, hformat⟩ := decode_of_op_formatZ hop
    exact hformat.trans (decodeZ_of_low_ne_zero i hlow)
  case formatF =>
    rw [← extractLsb'_lowField w (by decide)] at hhigh
    exact (decode_of_op_formatF hop).trans (decodeF_of_high_ne_zero hhigh)
  case count =>
    rw [← extractLsb'_lowField w (by decide)] at hhigh hcount
    exact (decode_of_op_formatF hop).trans (decodeF_of_bad_count hhigh hcount)
  case formatU =>
    rw [← extractLsb'_lowField w (by decide)] at hhigh
    exact (decode_of_op_formatU hop).trans (decodeU_of_high_ne_zero hhigh)
  case formatC =>
    rw [← extractLsb'_lowField w (by decide), ← extractLsb'_lowField w (by decide)] at hbad
    refine (decode_of_op_formatC hop).trans ?_
    rcases hbad with hhigh | hpulse
    · exact decodeC_of_high_ne_zero hhigh
    · exact decodeC_of_no_pulse hpulse

end Sys2Proof.Proofs

namespace Sys2Proof.Proofs

open Sys2Proof Sys2Proof.Machine

/-! ### The four digits (40_digit_encoder.md R131, R133) -/

/-- Settles O22: below 6000 the minutes have two digits, so none of the four values loses bits at digit width. -/
theorem digitsOfSeconds : Obligations.DigitsOfSeconds := fun e he => toDigits_toNat e (Nat.lt_succ_of_le he)

/-- The ranges of R131: only the tens of seconds stop short of 9. -/
theorem toDigits_bounds {e : Nat} (h : e < 6000) :
    (toDigits e).d0.toNat ≤ 9 ∧ (toDigits e).d1.toNat ≤ 9 ∧ (toDigits e).d2.toNat ≤ 5 ∧ (toDigits e).d3.toNat ≤ 9 := by
  obtain ⟨hd0, hd1, hd2, hd3⟩ := toDigits_toNat e h
  rw [hd0, hd1, hd2, hd3]
  omega

/-- The digits lose nothing: two seconds counts with the same digits are equal. -/
theorem seconds_eq_of_toDigits {e : Nat} (h : e < 6000) :
    e = 60 * (10 * (toDigits e).d0.toNat + (toDigits e).d1.toNat) + 10 * (toDigits e).d2.toNat +
      (toDigits e).d3.toNat := by
  obtain ⟨hd0, hd1, hd2, hd3⟩ := toDigits_toNat e h
  have hminutes : 10 * (e / 60 / 10) + e / 60 % 10 = e / 60 := Nat.div_add_mod _ _
  have hsecs : 10 * (e % 60 / 10) + e % 60 % 10 = e % 60 := Nat.div_add_mod _ _
  rw [hd0, hd1, hd2, hd3, hminutes, Nat.add_assoc, hsecs]
  exact (Nat.div_add_mod e 60).symm

/-! ### `TODIGITS` on each side of 6000 (40_digit_encoder.md R131, R132) -/

theorem exec_todigits (s : State) : exec .todigits s = runOp toDigitsOp s := rfl

theorem exec_todigits_of_lt {s : State} (hh : s.halt = false) (hr : s.rst ≠ some 0) (h : s.busSec < 6000) :
    exec .todigits s = .next { s with qDig := toDigits s.busSec } := by
  rw [exec_todigits, runOp_of_ready _ s hh hr, toDigitsOp, encodeDigits_of_ok _ _ h, update_apply, Flow.toOutcome_ok]

theorem exec_todigits_of_ge {s : State} (hh : s.halt = false) (hr : s.rst ≠ some 0) (h : 6000 ≤ s.busSec) :
    exec .todigits s = .next { s with halt := true, hcause := .digitRange } := by
  rw [exec_todigits, runOp_of_ready _ s hh hr, toDigitsOp, encodeDigits_of_large _ _ h, raiseHalt, Flow.toOutcome_ended]

/-- Settles O21: the range check on `A_SEC` splits the cases, and below 6000 the digits on `Q_DIG` are `toDigits`'s. -/
theorem toDigitsEncodesTheSeconds : Obligations.ToDigitsEncodesTheSeconds := by
  refine ⟨by decide, fun s hh hr => ⟨fun hlt => ?inRange, exec_todigits_of_ge hh hr⟩⟩
  case inRange =>
    obtain ⟨hd0, hd1, hd2, hd3⟩ := toDigits_toNat s.busSec hlt
    obtain ⟨hb0, hb1, hb2, hb3⟩ := toDigits_bounds (e := s.busSec) hlt
    exact ⟨toDigits s.busSec, exec_todigits_of_lt hh hr hlt, hd0, hd1, hd2, hd3, hb0, hb1, hb2, hb3,
      seconds_eq_of_toDigits hlt⟩

end Sys2Proof.Proofs

namespace Sys2Proof.Proofs

open Sys2Proof Sys2Proof.Machine

/-! ### Words built from an identifier and a low byte (30_encoding.md R110, R112) -/

/-- The identifier in the upper four bits, ORed with the low byte. -/
theorem shiftLeft_or_eq_microWord (op : BitVec 4) (low : BitVec 8) :
    op.zeroExtend 12 <<< 8 ||| low.zeroExtend 12 = microWord op low := by
  rw [microWord, BitVec.append_def, BitVec.shiftLeftZeroExtend_eq, BitVec.setWidth'_eq]

@[simp] theorem lowField_microWord (op : BitVec 4) (low : BitVec 8) : lowField (microWord op low) = low :=
  BitVec.extractLsb'_append_eq_right

/-! Format B (R111): the low byte is the operand, and none is reserved. -/

theorem decode_wrbyte_word (b : Byte) : decode (0x200#12 ||| b.zeroExtend 12) = .ok (.wrbyte b) := by
  have hword : 0x200#12 ||| b.zeroExtend 12 = microWord 0x2 b := shiftLeft_or_eq_microWord 0x2 b
  simp [hword, decode, Laws.opField_microWord]

theorem decode_wrdatacmd_word (b : Byte) : decode (0x400#12 ||| b.zeroExtend 12) = .ok (.wrdatacmd b) := by
  have hword : 0x400#12 ||| b.zeroExtend 12 = microWord 0x4 b := shiftLeft_or_eq_microWord 0x4 b
  simp [hword, decode, Laws.opField_microWord]

theorem decode_wrdispcmd_word (b : Byte) : decode (0x500#12 ||| b.zeroExtend 12) = .ok (.wrdispcmd b) := by
  have hword : 0x500#12 ||| b.zeroExtend 12 = microWord 0x5 b := shiftLeft_or_eq_microWord 0x5 b
  simp [hword, decode, Laws.opField_microWord]

/-- Format F (R111) with a digit count of R114(c): two flags and three counts, word by word. -/
theorem decode_wrframe_word (k : Bool) (n : BitVec 3) (hlo : 4 ≤ n.toNat) (hhi : n.toNat ≤ 6) :
    decode (0x600#12 ||| ((BitVec.ofBool k).zeroExtend 12 <<< 3) ||| n.zeroExtend 12) = .ok (.wrframe k n) := by
  revert k n
  decide

/-! ### The meanings of the serial engine's operations as whole operations -/

theorem exec_start (s : State) : exec .start s = runOp start s := rfl

theorem exec_stop (s : State) : exec .stop s = runOp stop s := rfl

theorem exec_wrbyte (b : Byte) (s : State) : exec (.wrbyte b) s = runOp (wrByte b) s := rfl

theorem exec_waitack (s : State) : exec .waitack s = runOp waitAck s := rfl

theorem exec_wrdatacmd (b : Byte) (s : State) : exec (.wrdatacmd b) s = runOp (sendCommand b) s := rfl

theorem exec_wrdispcmd (b : Byte) (s : State) : exec (.wrdispcmd b) s = runOp (sendCommand b) s := rfl

theorem exec_wrframe (k : Bool) (n : BitVec 3) (s : State) :
    exec (.wrframe k n) s = runOp (wrFrame n.toNat k s.bus.fDcmd s.bus.fAddr s.bus.fDig s.bus.fDisp) s := rfl

/-! A whole operation that is neither halted nor cut off by a due reset answers as its lines end. -/

theorem runOp_of_ok {o : Op} {s t : State} (hh : s.halt = false) (hr : s.rst ≠ some 0) (h : o s = .ok t) :
    runOp o s = .next t := by
  rw [runOp_of_ready o s hh hr, h, Flow.toOutcome_ok]

theorem runOp_of_ended {o : Op} {s t : State} (hh : s.halt = false) (hr : s.rst ≠ some 0) (h : o s = .ended t) :
    runOp o s = .next t := by
  rw [runOp_of_ready o s hh hr, h, Flow.toOutcome_ended]

theorem runOp_of_refused {o : Op} {s : State} {r : Refusal} (hh : s.halt = false) (hr : s.rst ≠ some 0)
    (h : o s = .refused r) : runOp o s = .refused r := by
  rw [runOp_of_ready o s hh hr, h, Flow.toOutcome_refused]

theorem rst_not_due_of_none {s : State} (h : s.rst = none) : s.rst ≠ some 0 := by simp [h]

/-! ### Where the framing checker refuses (41_serial_engine.md R141) -/

theorem track_of_none {p : Prim} {s : State} (h : trackNext s.framing p = none) : track p s = .refused .framing := by
  simp [track, h]

/-- A primitive asks the checker first: refused there, none of its lines runs. -/
theorem prog_track_of_none {p : Prim} {s : State} (os : List Op) (h : trackNext s.framing p = none) :
    prog (track p :: os) s = .refused .framing := by
  rw [prog_cons, track_of_none h, Flow.andThen_refused]

theorem compositeOk_iff {f : Option Tracker} : compositeOk f = true ↔ f = none ∨ f = some .idle := by
  simp [compositeOk]

theorem compositeOk_of_busy {f : Option Tracker} (hnone : f ≠ none) (hidle : f ≠ some .idle) :
    compositeOk f = false := by
  rw [Bool.eq_false_iff, Ne, compositeOk_iff]
  exact not_or.mpr ⟨hnone, hidle⟩

theorem trackComposite_of_busy {s : State} (h : compositeOk s.framing = false) :
    trackComposite s = .refused .framing := by
  simp [trackComposite, h]

theorem sendCommand_of_busy (b : Byte) {s : State} (h : compositeOk s.framing = false) :
    sendCommand b s = .refused .framing := by
  rw [sendCommand, prog_cons, trackComposite_of_busy h, Flow.andThen_refused]

/-- Between its two operand checks `WRFRAME` asks the checker, whatever the digits are (assumption log 11). -/
theorem wrFrame_of_busy {n : Nat} (k : Bool) (dcmd addr : Byte) (ls : Vector Digit 6) (disp : Byte) {s : State}
    (hn : frameLengthOk s.cfg n = true) (h : compositeOk s.framing = false) :
    wrFrame n k dcmd addr ls disp s = .refused .framing := by
  rw [wrFrame, if_pos hn, prog_cons, trackComposite_of_busy h, Flow.andThen_refused]

/-! ### The primitives -/

/-- Settles O9: the lines of `START` are the symbol `S`, whose edges are read off from either pair of levels. -/
theorem startSendsTheStartCondition : Obligations.StartSendsTheStartCondition := by
  refine ⟨by decide, fun s f hh hr hf => ?accepted, fun s hh hr hf => ?refused, fun c => ⟨rfl, rfl⟩⟩
  case accepted =>
    rw [exec_start]
    exact runOp_of_ok hh (rst_not_due_of_none hr) (start_of_rst_none s f hr hf)
  case refused =>
    rw [exec_start]
    exact runOp_of_refused hh hr (prog_track_of_none _ hf)

/-- Settles O10: the lines of `STOP` are the symbol `P`. -/
theorem stopSendsTheStopCondition : Obligations.StopSendsTheStopCondition := by
  refine ⟨by decide, fun s f hh hr hf => ?accepted, fun s hh hr hf => ?refused⟩
  case accepted =>
    rw [exec_stop]
    exact runOp_of_ok hh (rst_not_due_of_none hr) (stop_of_rst_none s f hr hf)
  case refused =>
    rw [exec_stop]
    exact runOp_of_refused hh hr (prog_track_of_none _ hf)

/-- Settles O12: the lines of `WAITACK` are the symbol `A`, which has no `DIO` write. -/
theorem waitAckClocksTheSlotUnread : Obligations.WaitAckClocksTheSlotUnread := by
  refine ⟨by decide, fun s f hh hr hf => ?accepted, fun s hh hr hf => ?refused⟩
  case accepted =>
    rw [exec_waitack]
    exact runOp_of_ok hh (rst_not_due_of_none hr) (waitAck_of_rst_none s f hr hf)
  case refused =>
    rw [exec_waitack]
    exact runOp_of_refused hh hr (prog_track_of_none _ hf)

/-- The byte symbol cell by cell, in the order of the bits (30_encoding.md R91). -/
theorem symByte_eq_flatMap (c : Config) (b : Byte) :
    symByte c b = (List.range 8).flatMap fun i => symBit c (b.getLsbD i) := rfl

/-- Settles O11: the loop of `WRBYTE` shifts out the symbol `B(b)`, one cell for each bit in ascending order. -/
theorem writeByteSendsBitsLowestFirst : Obligations.WriteByteSendsBitsLowestFirst := by
  intro b
  refine ⟨decode_wrbyte_word b, fun s f hh hr hf => ?accepted, fun s hh hr hf => ?refused⟩
  case accepted =>
    have hrun := wrByte_of_rst_none b s f hr hf
    rw [symByte_eq_flatMap] at hrun
    rw [exec_wrbyte]
    exact runOp_of_ok hh (rst_not_due_of_none hr) hrun
  case refused =>
    rw [exec_wrbyte]
    exact runOp_of_refused hh hr (prog_track_of_none _ hf)

/-! ### The command operations -/

/-- Format T1 (30_encoding.md R92): the transaction of one byte. -/
theorem transaction_singleton (c : Config) (b : Byte) :
    transaction c [b] = symS c ++ symByte c b ++ symA c ++ symP c := by
  simp [transaction, ackedBytes]

/-- `WRDATACMD` and `WRDISPCMD` differ in their words only: both run the one single-byte transaction. -/
theorem exec_command {b : Byte} {i : Instr} (hi : i ∈ [Instr.wrdatacmd b, Instr.wrdispcmd b]) (s : State) :
    exec i s = runOp (sendCommand b) s := by
  simp only [List.mem_cons, List.not_mem_nil, or_false] at hi
  rcases hi with rfl | rfl
  · exact exec_wrdatacmd b s
  · exact exec_wrdispcmd b s

/-- Settles O13: both commands run `sendCommand`, which sends the transaction of one byte or is refused at once. -/
theorem commandsSendOneByteTransactions : Obligations.CommandsSendOneByteTransactions := by
  intro b
  refine ⟨decode_wrdatacmd_word b, decode_wrdispcmd_word b,
    fun i hi s hh => ⟨fun hr hf => ?accepted, fun hr hnone hidle => ?refused⟩, fun c => rfl⟩
  case accepted =>
    have hrun := sendCommand_of_rst_none b s hr (compositeOk_iff.mpr hf)
    rw [transaction_singleton] at hrun
    rw [exec_command hi]
    exact runOp_of_ok hh (rst_not_due_of_none hr) hrun
  case refused =>
    rw [exec_command hi]
    exact runOp_of_refused hh hr (sendCommand_of_busy b (compositeOk_of_busy hnone hidle))

/-! ### Frames: the operand checks and the overlay (30_encoding.md R101, R104) -/

theorem frameLengthOk_iff {c : Config} {n : Nat} : frameLengthOk c n = true ↔ c.nMin ≤ n ∧ n ≤ c.nMax ∧ n ≤ 6 := by
  simp [frameLengthOk]

theorem frameLengthOk_of_outside {c : Config} {n : Nat} (h : n < c.nMin ∨ c.nMax < n ∨ 6 < n) :
    frameLengthOk c n = false := by
  rw [Bool.eq_false_iff, Ne, frameLengthOk_iff]
  omega

theorem glyphRangeOk_iff {ds : List Digit} : glyphRangeOk ds = true ↔ ∀ d ∈ ds, d.toNat < 12 := by
  simp [glyphRangeOk]

theorem glyphRangeOk_of_large {ds : List Digit} (h : ∃ d ∈ ds, 12 ≤ d.toNat) : glyphRangeOk ds = false := by
  obtain ⟨d, hd, hlarge⟩ := h
  rw [Bool.eq_false_iff, Ne, glyphRangeOk_iff]
  exact fun hall => Nat.not_lt.mpr hlarge (hall d hd)

theorem dotMask_eq (c : Config) : dotMask c = c.glyph[11] := by
  simp [dotMask, List.getD_eq_getElem?_getD]

/-- The byte of a digit by the blink flag (30_encoding.md R101). -/
theorem wireGlyph_eq (c : Config) (k : Bool) :
    wireGlyph c k = fun d =>
      if k then c.glyph.toList.getD d.toNat 0 ||| c.glyph[11] else c.glyph.toList.getD d.toNat 0 := by
  funext d
  rw [wireGlyph, dotMask_eq, glyphOf]

/-- With the overlay a digit's byte is its byte without, OR the dot mask. -/
theorem wireGlyph_true (c : Config) (d : Digit) : wireGlyph c true d = wireGlyph c false d ||| c.glyph[11] := by
  simp [wireGlyph, dotMask_eq]

/-- Settles O15: the three checks in the order of R150 and assumption log 11, then the three transactions of
`frameEvents`. -/
theorem writeFrameSendsThreeTransactions : Obligations.WriteFrameSendsThreeTransactions := by
  refine ⟨decode_wrframe_word, fun s k n hh hr => ⟨fun hlength => ?length, fun hmin hmax hsix => ?legalLength⟩⟩
  case length =>
    rw [exec_wrframe]
    exact runOp_of_refused hh hr (wrFrame_of_badLength _ _ _ _ _ _ _ (frameLengthOk_of_outside hlength))
  case legalLength =>
    have hn : frameLengthOk s.cfg n.toNat = true := frameLengthOk_iff.mpr ⟨hmin, hmax, hsix⟩
    rw [exec_wrframe]
    refine ⟨fun hf hlarge => ?badGlyph, fun hdigits => ⟨fun hnone hidle => ?busy, fun hf hr0 => ?sent⟩⟩
    case badGlyph =>
      exact runOp_of_ended hh hr
        (wrFrame_of_badGlyph _ _ _ _ _ _ _ (compositeOk_iff.mpr hf) hn (glyphRangeOk_of_large hlarge))
    case busy =>
      exact runOp_of_refused hh hr (wrFrame_of_busy _ _ _ _ _ hn (compositeOk_of_busy hnone hidle))
    case sent =>
      have hrun := wrFrame_of_rst_none n.toNat k s.bus.fDcmd s.bus.fAddr s.bus.fDig s.bus.fDisp s hr0
        (compositeOk_iff.mpr hf) hn (glyphRangeOk_iff.mpr hdigits)
      rw [frameEvents, wireGlyph_eq, BitVec.ofNat_toNat, BitVec.setWidth_eq] at hrun
      exact runOp_of_ok hh hr hrun

/-- A frame around its glyph bytes: nothing before the first and nothing after the last depends on the blink flag. -/
theorem frameEvents_eq_around_glyphs (c : Config) (k : Bool) (dcmd addr : Byte) (ds : List Digit) (disp : Byte) :
    frameEvents c k dcmd addr ds disp =
      (transaction c [dcmd] ++ symS c ++ symByte c addr ++ symA c) ++
        ds.flatMap (fun d => symByte c (wireGlyph c k d) ++ symA c) ++ (symP c ++ transaction c [disp]) := by
  have hframe : transaction c (addr :: ds.map (wireGlyph c k)) =
      symS c ++ symByte c addr ++ symA c ++ ds.flatMap (fun d => symByte c (wireGlyph c k d) ++ symA c) ++ symP c := by
    simp [transaction, ackedBytes, List.flatMap_map]
  simp only [frameEvents, hframe, List.append_assoc]

/-- Two events that are equal or both write `DIO`. -/
def SameButDio (e e' : Event) : Prop := e = e' ∨ (e.isDio = true ∧ e'.isDio = true)

theorem symBit_sameButDio (c : Config) (v v' : Bool) : List.Forall₂ SameButDio (symBit c v) (symBit c v') := by
  simp [symBit, SameButDio, Event.isDio]

/-- Cell by cell, two byte symbols have the same shape. -/
theorem symByte_sameButDio (c : Config) (b b' : Byte) : List.Forall₂ SameButDio (symByte c b) (symByte c b') := by
  rw [symByte_eq_flatMap, symByte_eq_flatMap]
  refine List.rel_flatMap (List.forall₂_refl (Rₐ := Eq) (List.range 8)) ?_
  rintro i _ rfl
  exact symBit_sameButDio c _ _

/-- Settles O17: the overlay glyph by glyph, the frame around the glyphs, and two bytes cell by cell. -/
theorem overlayChangesOnlyGlyphBits : Obligations.OverlayChangesOnlyGlyphBits := by
  intro c dcmd addr disp ds
  refine ⟨?glyphs, fun k => frameEvents_eq_around_glyphs c k dcmd addr ds disp, symByte_sameButDio c⟩
  case glyphs =>
    rw [List.map_map]
    exact List.map_congr_left fun d _ => wireGlyph_true c d

end Sys2Proof.Proofs

namespace Sys2Proof.Proofs

open Sys2Proof Sys2Proof.Machine

/-! ### The settle window (42_debounce.md R172) -/

theorem settled_iff {c : Config} {t chg : Nat} : settled c t chg = true ↔ c.dbThreshold < subMod c.wTick t chg := by
  simp [settled]

@[simp] theorem subMod_self (w a : Nat) : subMod w a a = 0 := by
  have hlt : a % 2 ^ w < 2 ^ w := Nat.mod_lt a (Nat.two_pow_pos w)
  have hpad : a % 2 ^ w + (2 ^ w - a % 2 ^ w) = 2 ^ w := by omega
  calc subMod w a a = (a % 2 ^ w + (2 ^ w - a % 2 ^ w)) % 2 ^ w := (Nat.mod_add_mod a (2 ^ w) _).symm
    _ = 0 := by rw [hpad, Nat.mod_self]

/-- A window that begins at this tick has not elapsed, whatever the threshold. -/
@[simp] theorem settled_self (c : Config) (t : Nat) : settled c t t = false := by simp [settled]

/-! ### One poll in closed form (42_debounce.md R171) -/

/-- `CHG[u]` after a poll: step 1 writes it only where the sample differs from `RAW[u]`. -/
def changeTick (d : Debounce) (r : Bool) (t : Nat) : Nat := if r = d.raw then d.chg else t

theorem changeTick_of_eq {d : Debounce} {r : Bool} (t : Nat) (h : r = d.raw) : changeTick d r t = d.chg := if_pos h

theorem changeTick_of_ne {d : Debounce} {r : Bool} (t : Nat) (h : r ≠ d.raw) : changeTick d r t = t := if_neg h

theorem observe_eq (d : Debounce) (r : Bool) (t : Nat) : d.observe r t = ⟨r, d.stb, changeTick d r t⟩ := by
  by_cases h : r = d.raw
  case pos => subst h; simp [changeTick]
  case neg => rw [observe_of_ne_raw d t h, changeTick_of_ne t h]

/-- Step 2 asks the window that step 1 leaves. -/
theorem commits_observe_iff {c : Config} {d : Debounce} {r : Bool} {t : Nat} :
    commits c (d.observe r t) r t = true ↔ settled c t (changeTick d r t) = true ∧ r ≠ d.stb := by
  simp [commits, observe_eq]

/-- The registers after a poll. Where the sample equals `STB[u]` nothing commits, and writing it would change nothing. -/
theorem poll_registers (c : Config) (d : Debounce) (r : Bool) (t : Nat) :
    (d.poll c r t).1 =
      ⟨r, if c.dbThreshold < subMod c.wTick t (changeTick d r t) then r else d.stb, changeTick d r t⟩ := by
  simp only [← settled_iff, Debounce.poll, commits_observe_iff]
  by_cases hsame : r = d.stb
  case pos => simp [hsame, observe_eq]
  case neg => cases hwindow : settled c t (changeTick d r t) <;> simp [hsame, observe_eq, Debounce.commit]

theorem poll_registers_of_elapsed {c : Config} {d : Debounce} {r : Bool} {t : Nat}
    (h : c.dbThreshold < subMod c.wTick t (changeTick d r t)) : (d.poll c r t).1 = ⟨r, r, changeTick d r t⟩ := by
  rw [poll_registers, if_pos h]

/-- The edge event fires where the poll commits the pressed level. -/
theorem poll_fires_iff {c : Config} {d : Debounce} {r : Bool} {t : Nat} :
    (d.poll c r t).2 = true ↔
      c.dbThreshold < subMod c.wTick t (changeTick d r t) ∧ r ≠ d.stb ∧ r = c.active := by
  rw [← settled_iff, ← and_assoc, ← commits_observe_iff, Debounce.poll]
  cases commits c (d.observe r t) r t <;> simp

/-- A change restarts the window at the tick the comparator then reads: the difference is 0. -/
theorem poll_of_ne_raw (c : Config) {d : Debounce} {r : Bool} (t : Nat) (h : r ≠ d.raw) :
    d.poll c r t = (⟨r, d.stb, t⟩, false) := by
  simp [Debounce.poll, observe_of_ne_raw d t h, commits]

/-- Settles O24: a change makes the difference 0, so a poll that writes `STB[u]` saw no change and compared with the
change tick it found. -/
theorem changeCannotCommitAtOnce : Obligations.ChangeCannotCommitAtOnce := by
  refine fun c d r t => ⟨fun hchange => ?changed, fun hstb => ?committed⟩
  case changed => simp [poll_of_ne_raw c t hchange]
  case committed =>
    have hsame : r = d.raw := by
      by_contra hchange
      exact hstb (by rw [poll_of_ne_raw c t hchange])
    by_contra hwindow
    apply hstb
    rw [poll_registers, changeTick_of_eq t hsame, if_neg hwindow]

/-! ### `DBPOLL u` as a whole operation -/

theorem exec_dbpoll (u : Button) (s : State) : exec (.dbpoll u) s = runOp (dbPoll u) s := rfl

theorem exec_ctrledge (s : State) : exec .ctrledge s = runOp ctrlEdge s := rfl

theorem exec_funcedge (s : State) : exec .funcedge s = runOp funcEdge s := rfl

/-- What instance `u` is left with by `DBPOLL u` from `s`, and whether it fires: the transition rule on the poll's two
samples. -/
def pollOf (u : Button) (s : State) : Debounce × Bool := (s.db u).poll s.cfg (s.envMove.btn u) s.atTickSample.tick

theorem exec_dbpoll_of_quiet {u : Button} {s : State} (hh : s.halt = false) (h : s.NoReset)
    (hquiet : (pollOf u s).2 = false) : exec (.dbpoll u) s = .next (s.atTickSample.setDb u (pollOf u s).1) := by
  rw [exec_dbpoll]
  exact runOp_of_ok hh (rst_not_due_of_none h.1) (dbPoll_of_quiet u s h hquiet)

/-- The action starts in a state that is neither halted nor about to be reset, hence runs as an operation of its own. -/
theorem exec_dbpoll_of_edge {u : Button} {s : State} (hh : s.halt = false) (h : s.NoReset)
    (hedge : (pollOf u s).2 = true) :
    exec (.dbpoll u) s = runOp (fire u) (s.atTickSample.setDb u (pollOf u s).1) := by
  have hhalt : (s.atTickSample.setDb u (pollOf u s).1).halt = false := by simp [State.atTickSample, hh]
  have hrst : (s.atTickSample.setDb u (pollOf u s).1).rst = none := by
    rw [State.setDb_rst]
    exact h.envMove.envMove.1
  rw [exec_dbpoll, runOp_of_ready _ s hh (rst_not_due_of_none h.1), dbPoll_of_edge u s h hedge,
    runOp_of_ready _ _ hhalt (rst_not_due_of_none hrst), pollOf]

/-- Settles O23: the poll's registers in closed form, and the two answers of `DBPOLL` by whether it fires. -/
theorem pollFollowsTheTransitionRule : Obligations.PollFollowsTheTransitionRule := by
  refine ⟨by decide, by decide, fun s u hh h => ⟨fun hquiet => ?quiet, fun hwindow hstb hpressed => ?edge⟩⟩
  case quiet =>
    have hfired : (pollOf u s).2 = false := Bool.eq_false_iff.mpr (hquiet ∘ poll_fires_iff.mp)
    rw [exec_dbpoll_of_quiet hh h hfired, pollOf, poll_registers]
    rfl
  case edge =>
    have hfired : (pollOf u s).2 = true := poll_fires_iff.mpr ⟨hwindow, hstb, hpressed⟩
    have hcommitted : (pollOf u s).1 =
        ⟨s.envMove.btn u, s.envMove.btn u, changeTick (s.db u) (s.envMove.btn u) s.atTickSample.tick⟩ :=
      poll_registers_of_elapsed hwindow
    rw [exec_dbpoll_of_edge hh h hfired, hcommitted]
    cases u
    case ctrl => exact (exec_ctrledge _).symm
    case func => exact (exec_funcedge _).symm

end Sys2Proof.Proofs

namespace Sys2Proof.Proofs

open Sys2Proof Sys2Proof.Machine

/-! ### The environment's moves beside writes to what PTC owns (10_state.md R33 to R36) -/

/-- A write that every single move commutes with commutes with the environment's moves before a line. -/
theorem envMove_comm {f : State → State} (hmove : ∀ s m, (f s).move m = f (s.move m))
    (henv : ∀ s, (f s).env = s.env) (hrest : ∀ s es, { f s with env := es } = f { s with env := es }) (s : State) :
    (f s).envMove = f s.envMove := by
  have hfold : ∀ (ms : List EnvMove) (s : State), ms.foldl State.move (f s) = f (ms.foldl State.move s) := by
    intro ms
    induction ms with
    | nil => exact fun s => rfl
    | cons m ms ih =>
      intro s
      rw [List.foldl_cons, hmove, ih, List.foldl_cons]
  unfold State.envMove
  rw [henv]
  split
  · rfl
  · rw [hrest, hfold]

/-! ### The transition function, row by row (43_session.md R186, R189) -/

theorem addMod_one_of_lt {w n : Nat} (h : n + 1 < 2 ^ w) : addMod w n 1 = n + 1 := Nat.mod_eq_of_lt h

/-- A counter below a valid `CYC_LIMIT` does not wrap when it is incremented (00_scope.md R10). -/
theorem addMod_one_of_valid {c : Config} {n : Nat} (hc : c.Valid) (hn : n < c.cycLimit) :
    addMod c.wCyc n 1 = n + 1 := by
  obtain ⟨hpos, hfits⟩ := hc.limit
  exact addMod_one_of_lt (by omega)

/-- A rollover under the default variant, by the mode it leaves. -/
theorem nextMode_atFocusExit {c : Config} (h : c.cycVariant = .atFocusExit) (m : Mode) (n : Nat) :
    nextMode c m n = nextAtFocusExit c m n := by simp only [nextMode, h]

theorem nextMode_atShortExit {c : Config} (h : c.cycVariant = .atShortExit) (m : Mode) (n : Nat) :
    nextMode c m n = nextAtShortExit c m n := by simp only [nextMode, h]

theorem nextAtFocusExit_short_of_lt {c : Config} {n : Nat} (h : n < c.cycLimit) :
    nextAtFocusExit c .shortBreak n = ⟨.focus, n, 2⟩ := if_pos h

theorem nextAtFocusExit_short_of_ge {c : Config} {n : Nat} (h : c.cycLimit ≤ n) :
    nextAtFocusExit c .shortBreak n = ⟨.longBreak, 0, 2⟩ := if_neg (Nat.not_lt.mpr h)

theorem nextAtShortExit_short_of_lt {c : Config} {n : Nat} (hw : n + 1 < 2 ^ c.wCyc) (h : n + 1 < c.cycLimit) :
    nextAtShortExit c .shortBreak n = ⟨.focus, n + 1, 2⟩ := by
  rw [nextAtShortExit, addMod_one_of_lt hw, if_pos h]

theorem nextAtShortExit_short_of_ge {c : Config} {n : Nat} (hw : n + 1 < 2 ^ c.wCyc) (h : c.cycLimit ≤ n + 1) :
    nextAtShortExit c .shortBreak n = ⟨.longBreak, 0, 2⟩ := by
  rw [nextAtShortExit, addMod_one_of_lt hw, if_neg (Nat.not_lt.mpr h)]

/-- Settles O29: each row of the table, with the increment of the first one below the counter's width. -/
theorem transitionTable : Obligations.TransitionTable := by
  intro c n hvar
  simp only [nextMode_atFocusExit hvar]
  refine ⟨rfl, fun hc hn => ?_, nextAtFocusExit_short_of_lt, nextAtFocusExit_short_of_ge, rfl⟩
  rw [nextAtFocusExit, addMod_one_of_valid hc hn]

/-- R189's table of the other variant. -/
theorem shortExitTable {c : Config} {n : Nat} (hvar : c.cycVariant = .atShortExit) (hn : n < 2 ^ c.wCyc - 1) :
    nextMode c .focus n = ⟨.shortBreak, n, 1⟩ ∧
    (n + 1 < c.cycLimit → nextMode c .shortBreak n = ⟨.focus, n + 1, 2⟩) ∧
    (c.cycLimit ≤ n + 1 → nextMode c .shortBreak n = ⟨.longBreak, 0, 2⟩) ∧
    nextMode c .longBreak n = ⟨.focus, 0, 3⟩ := by
  have hw : n + 1 < 2 ^ c.wCyc := by omega
  simp only [nextMode_atShortExit hvar]
  exact ⟨rfl, nextAtShortExit_short_of_lt hw, nextAtShortExit_short_of_ge hw, rfl⟩

/-! ### The session's operations as whole operations -/

theorem exec_autoroll (s : State) : exec .autoroll s = runOp autoRoll s := rfl

theorem exec_cue (p : BitVec 2) (s : State) : exec (.cue p) s = runOp (cue p.toNat) s := rfl

theorem exec_funcedge_of_noReset {s : State} (hh : s.halt = false) (h : s.NoReset) :
    exec .funcedge s = .next s.rolled := by
  rw [exec_funcedge]
  exact runOp_of_ok hh (rst_not_due_of_none h.1) (funcEdge_of_noReset s h)

theorem exec_cue_of_rst_none {p : BitVec 2} {s : State} (hh : s.halt = false) (hr : s.rst = none) (hp : p.toNat ≠ 0) :
    exec (.cue p) s = .next { s with buz := false, trace := s.trace ++ cueEvents s.cfg p.toNat } := by
  rw [exec_cue]
  exact runOp_of_ok hh (rst_not_due_of_none hr) (cue_of_rst_none p.toNat hp s hr)

/-- Settles O32: the events of each cue are its pulses written out. -/
theorem cuePulsesTheBuzzer : Obligations.CuePulsesTheBuzzer := by
  intro s hh on off w z
  refine ⟨fun hr => ⟨?one, ?two, ?three⟩, fun hr => ?none⟩
  case one => exact exec_cue_of_rst_none hh hr (by decide)
  case two => exact exec_cue_of_rst_none hh hr (by decide)
  case three => exact exec_cue_of_rst_none hh hr (by decide)
  case none =>
    rw [exec_cue]
    exact runOp_of_refused hh hr rfl

/-! ### `CTRLEDGE` (43_session.md R190) -/

/-- The event `TMR_RUN=v` stands on the trace the operation began with: the environment writes no event. -/
theorem atTimerSample_eq (s : State) :
    s.atTimerSample = State.envMove { State.envMove { s with run := !s.run } with
      tmrRun := !s.run, trace := s.trace ++ [.tmrRun (!s.run)] } := by
  simp [State.atTimerSample, State.log]

theorem atTimerSample_trace (s : State) : s.atTimerSample.trace = s.trace ++ [.tmrRun (!s.run)] := by
  simp [State.atTimerSample]

theorem exec_ctrledge_of_sound {s : State} (hh : s.halt = false) (h : s.NoReset)
    (hf : s.atTimerSample.tmrFail = false) :
    exec .ctrledge s = .next { s.atTimerSample.envMove with
      sec := 0
      mode := .focus
      tgt := s.cfg.tFocus
      cyc := 0
      trace := s.trace ++ [.tmrRun (!s.run), .secClr] } := by
  have hrun := ctrlEdge_of_noReset s h
  rw [if_neg (by simp [hf])] at hrun
  rw [exec_ctrledge, runOp_of_ok hh (rst_not_due_of_none h.1) hrun]
  simp [State.log, atTimerSample_trace]

theorem exec_ctrledge_of_failing {s : State} (hh : s.halt = false) (h : s.NoReset)
    (hf : s.atTimerSample.tmrFail = true) :
    exec .ctrledge s =
      .next { s.atTimerSample with halt := true, hcause := if s.run then .timerStop else .timerStart } := by
  have hrun := ctrlEdge_of_noReset s h
  rw [if_pos hf] at hrun
  rw [exec_ctrledge]
  exact runOp_of_ended hh (rst_not_due_of_none h.1) hrun

/-- Settles O28: the two ends of `CTRLEDGE`, by what it samples on `TMR_FAIL`. -/
theorem controlEdgeResetsTheSession : Obligations.ControlEdgeResetsTheSession := by
  refine ⟨by decide, fun s hh h => ?_⟩
  intro a b
  have hb : b = s.atTimerSample := (atTimerSample_eq s).symm
  rw [hb]
  exact ⟨exec_ctrledge_of_sound hh h, exec_ctrledge_of_failing hh h⟩

/-! ### `FUNCEDGE` and `AUTOROLL` (43_session.md R187, R191, R192) -/

/-- The first two writes of `ROLL`: no line stands between them. -/
def enterMode (r : Rollover) (s : State) : State := { s with mode := r.mode, cyc := r.cyc }

theorem enterMode_envMove (r : Rollover) (s : State) : (enterMode r s).envMove = enterMode r s.envMove := by
  refine envMove_comm (f := enterMode r) (fun s m => ?_) (fun _ => rfl) (fun _ _ => rfl) s
  rcases m with _ | _ | ⟨u, v⟩ | v | k
  case secTick =>
    rw [State.move, State.move, apply_ite (enterMode r)]
    rfl
  case btn => cases u <;> rfl
  all_goals rfl

theorem rolled_eq (s : State) :
    s.rolled = { s.envMove with
      mode := (nextMode s.cfg s.mode s.cyc).mode
      cyc := (nextMode s.cfg s.mode s.cyc).cyc
      sec := 0
      tgt := dur s.cfg (nextMode s.cfg s.mode s.cyc).mode
      trace := s.trace ++ [.secClr] } := by
  have henter := enterMode_envMove (nextMode s.cfg s.mode s.cyc) s
  simp only [enterMode] at henter
  rw [State.rolled, henter]
  simp [State.log]

/-- Settles O30: the state after `ROLL`, whose one event is `SEC_CLR`. -/
theorem functionEdgeRollsOverSilently : Obligations.FunctionEdgeRollsOverSilently := by
  refine ⟨by decide, fun s hh h => ?_⟩
  exact (exec_funcedge_of_noReset hh h).trans (congrArg Host.Outcome.next (rolled_eq s))

/-- Settles O31: both operations roll over alike; `AUTOROLL` goes on with the cue of the pulses `ROLL` returns. -/
theorem autoRollPlaysTheCueOfTheModeLeft : Obligations.AutoRollPlaysTheCueOfTheModeLeft := by
  refine ⟨by decide, fun s hh h => ⟨s.rolled, exec_funcedge_of_noReset hh h, ?_⟩⟩
  have htrace : s.rolled.trace = s.trace ++ [.secClr] := by rw [rolled_eq]
  rw [exec_autoroll, runOp_of_ok hh (rst_not_due_of_none h.1) (autoRoll_of_noReset s h), htrace]
  exact congrArg (fun p => Host.Outcome.next { s.rolled with
    buz := false, trace := s.trace ++ [Event.secClr] ++ cueEvents s.cfg p }) (nextMode_pulses s.cfg s.mode s.cyc)

end Sys2Proof.Proofs

namespace Sys2Proof.Proofs

open Sys2Proof Sys2Proof.Machine

/-! ### A state of variant A and the state of variant B beside it (43_session.md R189) -/

/-- The state is one of variant A, under the valid configuration `c`, with its counter in range. -/
structure RangedA (c : Config) (s : State) : Prop where
  cfg : s.cfg = c
  valid : c.Valid
  variant : c.cycVariant = .atFocusExit
  counter : cycInRange c s.mode s.cyc

/-- A write that the two variants make alike and that leaves the configuration, the mode and the counter alone. -/
structure Aside (f : State → State) : Prop where
  twin : ∀ s, f s.twinB = (f s).twinB := by intro s; rfl
  cfg : ∀ s, (f s).cfg = s.cfg := by intro s; rfl
  mode : ∀ s, (f s).mode = s.mode := by intro s; rfl
  cyc : ∀ s, (f s).cyc = s.cyc := by intro s; rfl

/-- The range speaks only of what such a write leaves alone. -/
theorem RangedA.of_aside {c : Config} {f : State → State} (hf : Aside f) {s : State} (hs : RangedA c s) :
    RangedA c (f s) where
  cfg := (hf.cfg s).trans hs.cfg
  valid := hs.valid
  variant := hs.variant
  counter := by rw [hf.mode, hf.cyc]; exact hs.counter

theorem aside_setDb (u : Button) (g : Debounce → Debounce) : Aside fun s => s.setDb u (g (s.db u)) := by
  cases u <;> exact {}

theorem aside_move (m : EnvMove) : Aside fun s => s.move m where
  twin s := by
    rcases m with _ | _ | ⟨u, v⟩ | v | k
    case secTick =>
      rw [State.move, State.move, apply_ite State.twinB]
      rfl
    case btn => cases u <;> rfl
    all_goals rfl
  cfg s := s.move_cfg m
  mode s := s.move_mode m
  cyc s := s.move_cyc m

theorem aside_envMove : Aside State.envMove where
  twin := envMove_comm (f := State.twinB) (fun s m => (aside_move m).twin s) (fun _ => rfl) (fun _ _ => rfl)
  cfg := State.envMove_cfg
  mode := State.envMove_mode
  cyc := State.envMove_cyc

/-- A reset puts variant A in range: `CYC_LIMIT` is at least 1. -/
theorem RangedA.restart {c : Config} {s : State} (hs : RangedA c s) : RangedA c s.restart := by
  refine ⟨hs.cfg, hs.valid, hs.variant, ?_⟩
  have hpos : 0 < c.cycLimit := hs.valid.limit.1
  simpa [cycInRange, hs.variant] using hpos

/-! ### The two transition tables side by side -/

/-- One rollover in both variants: the same mode and pulses, counters beside each other, the range kept. The counters
differ in a ShortBreak only, where B's is one less and B's test is made after the increment. -/
theorem nextMode_beside {c : Config} (hc : c.Valid) (hvar : c.cycVariant = .atFocusExit) {m : Mode} {n : Nat}
    (hn : cycInRange c m n) :
    nextMode { c with cycVariant := .atShortExit } m (cycOfVariantB m n) =
      ⟨(nextMode c m n).mode, cycOfVariantB (nextMode c m n).mode (nextMode c m n).cyc, (nextMode c m n).pulses⟩ ∧
    cycInRange c (nextMode c m n).mode (nextMode c m n).cyc := by
  rw [nextMode_atFocusExit hvar, nextMode_atShortExit rfl]
  cases m with
  | focus =>
    have hlt : n < c.cycLimit := by simpa only [cycInRange, hvar] using hn
    rw [nextAtFocusExit, addMod_one_of_valid hc hlt]
    simp only [cycInRange, hvar]
    exact ⟨rfl, Nat.le_add_left 1 n, hlt⟩
  | shortBreak =>
    obtain ⟨hpos, hle⟩ : 1 ≤ n ∧ n ≤ c.cycLimit := by simpa only [cycInRange, hvar] using hn
    have hsucc : n - 1 + 1 = n := Nat.sub_add_cancel hpos
    have hw : n - 1 + 1 < 2 ^ c.wCyc := by have := hc.limit; omega
    by_cases hlt : n < c.cycLimit
    case pos =>
      rw [nextAtFocusExit_short_of_lt hlt]
      refine ⟨(nextAtShortExit_short_of_lt hw (hsucc.symm ▸ hlt)).trans ?_, ?_⟩
      · rw [hsucc]; rfl
      · simpa only [cycInRange, hvar] using hlt
    case neg =>
      rw [nextAtFocusExit_short_of_ge (Nat.not_lt.mp hlt)]
      refine ⟨nextAtShortExit_short_of_ge hw (hsucc.symm ▸ Nat.not_lt.mp hlt), ?_⟩
      simp only [cycInRange, hvar]
  | longBreak =>
    have hzero : n = 0 := by simpa only [cycInRange, hvar] using hn
    subst hzero
    refine ⟨rfl, ?_⟩
    simpa only [nextAtFocusExit, cycInRange, hvar] using Nat.lt_of_lt_of_le Nat.one_pos hc.limit.1

/-! ### Stretches of an operation that end alike in the two variants -/

/-- How a stretch ends in variant A, in range, and how the same stretch ends beside it in variant B. -/
inductive EndsBeside (c : Config) : Flow → Flow → Prop
  | ok {s : State} (hs : RangedA c s) : EndsBeside c (.ok s) (.ok s.twinB)
  | ended {s : State} (hs : RangedA c s) : EndsBeside c (.ended s) (.ended s.twinB)
  | refused (r : Refusal) : EndsBeside c (.refused r) (.refused r)

theorem EndsBeside.andThen {c : Config} {f f' : Flow} {g g' : Op} (hf : EndsBeside c f f')
    (hg : ∀ s, RangedA c s → EndsBeside c (g s) (g' s.twinB)) : EndsBeside c (f.andThen g) (f'.andThen g') := by
  cases hf with
  | ok hs => exact hg _ hs
  | ended hs => exact .ended hs
  | refused r => exact .refused r

/-- The stretch `o` ends alike in the two variants, from every state of variant A in range. -/
def Alike (c : Config) (o : Op) : Prop := ∀ s, RangedA c s → EndsBeside c (o s) (o s.twinB)

namespace Alike

variable {c : Config}

theorem nil : Alike c (prog []) := fun _ hs => .ok hs

theorem cons {o : Op} {os : List Op} (ho : Alike c o) (hos : Alike c (prog os)) : Alike c (prog (o :: os)) :=
  fun s hs => (ho s hs).andThen hos

theorem andThen {o p : Op} (ho : Alike c o) (hp : Alike c p) : Alike c fun s => (o s).andThen p :=
  fun s hs => (ho s hs).andThen hp

theorem update {f : State → State} (hf : Aside f) : Alike c (update f) := fun s hs => by
  rw [update_apply, update_apply, hf.twin]
  exact .ok (hs.of_aside hf)

/-- A branch on a condition that reads the same in both variants. -/
theorem branch {b : State → Bool} {o p : Op} (hb : ∀ s, b s.twinB = b s) (ho : Alike c o) (hp : Alike c p) :
    Alike c fun s => if b s then o s else p s := fun s hs => by
  simp only [hb]
  split
  · exact ho s hs
  · exact hp s hs

/-- A branch on a condition that is settled before the stretch begins. -/
theorem either (b : Prop) [Decidable b] {o p : Op} (ho : Alike c o) (hp : Alike c p) :
    Alike c (if b then o else p) := by
  split
  · exact ho
  · exact hp

theorem refuse (r : Refusal) : Alike c (refuse r) := fun _ _ => .refused r

theorem raiseHalt (h : HaltCause) : Alike c (raiseHalt h) := fun s hs => by
  have hhalted : RangedA c { s with halt := true, hcause := h } :=
    hs.of_aside (f := fun s => { s with halt := true, hcause := h }) {}
  exact .ended hhalted

/-! Lines that touch a port or the environment -/

theorem line : Alike c line := fun s hs => by
  have hrst : s.twinB.rst = s.rst := rfl
  unfold Machine.line
  rw [hrst]
  split
  · exact .ok hs
  · exact .ended hs.restart
  case _ k _ => exact update (f := fun s => { s with rst := some k }) {} s hs

theorem envPoint : Alike c envPoint := fun s hs => by
  rw [Machine.envPoint, Machine.envPoint, aside_envMove.twin]
  exact line _ (hs.of_aside aside_envMove)

theorem output (e : Event) {f : State → State} (hf : Aside fun s => (f s).log e) : Alike c (output e f) :=
  line.andThen (update hf)

theorem setClk (v : Bool) : Alike c (setClk v) := output _ {}
theorem setDio (v : Bool) : Alike c (setDio v) := output _ {}
theorem setBuz (v : Bool) : Alike c (setBuz v) := output _ {}

/-- A wait is as long in both variants if its parameter is not the variant itself. -/
theorem waitUs (n : Config → Nat) (hn : ∀ c, n { c with cycVariant := .atShortExit } = n c) : Alike c (waitUs n) :=
  fun s hs => by
    have hlen : n s.twinB.cfg = n s.cfg := hn s.cfg
    rw [Machine.waitUs, Machine.waitUs, hlen]
    exact output _ {} s hs

theorem waitMs (n : Config → Nat) (hn : ∀ c, n { c with cycVariant := .atShortExit } = n c) : Alike c (waitMs n) :=
  fun s hs => by
    have hlen : n s.twinB.cfg = n s.cfg := hn s.cfg
    rw [Machine.waitMs, Machine.waitMs, hlen]
    exact output _ {} s hs

theorem clearSec : Alike c clearSec := envPoint.andThen (update {})

theorem driveTmrRun : Alike c driveTmrRun := envPoint.andThen (update {})

theorem sampleBtn (u : Button) {k : Bool → Op} (hk : ∀ r, Alike c (k r)) : Alike c (sampleBtn u k) :=
  envPoint.andThen fun s hs => by
    have hbtn : s.twinB.btn u = s.btn u := by cases u <;> rfl
    rw [hbtn]
    exact hk _ s hs

theorem sampleTick {k : Nat → Op} (hk : ∀ t, Alike c (k t)) : Alike c (sampleTick k) :=
  envPoint.andThen fun s hs => hk s.tick s hs

theorem sampleSec {k : Nat → Op} (hk : ∀ e, Alike c (k e)) : Alike c (sampleSec k) :=
  envPoint.andThen fun s hs => hk s.sec s hs

theorem sampleTmrFail {k : Bool → Op} (hk : ∀ f, Alike c (k f)) : Alike c (sampleTmrFail k) :=
  envPoint.andThen fun s hs => hk s.tmrFail s hs

/-! The serial engine (41_serial_engine.md) -/

theorem track (p : Prim) : Alike c (track p) := fun s hs => by
  have hframing : s.twinB.framing = s.framing := rfl
  unfold Machine.track
  rw [hframing]
  cases trackNext s.framing p with
  | none => exact .refused _
  | some f => exact update (f := fun s => { s with framing := f }) {} s hs

theorem trackComposite : Alike c trackComposite :=
  branch (fun _ => rfl) nil (refuse .framing)

theorem start : Alike c start :=
  cons (track _) <| cons (setClk _) <| cons (setDio _) <| cons (waitUs _ fun _ => rfl) <| cons (setDio _) nil

theorem stop : Alike c stop :=
  cons (track _) <| cons (setClk _) <| cons (waitUs _ fun _ => rfl) <| cons (setDio _) <|
    cons (waitUs _ fun _ => rfl) <| cons (setClk _) <| cons (waitUs _ fun _ => rfl) <| cons (setDio _) nil

theorem waitAck : Alike c waitAck :=
  cons (track _) <| cons (setClk _) <| cons (waitUs _ fun _ => rfl) <| cons (setClk _) <|
    cons (waitUs _ fun _ => rfl) <| cons (setClk _) nil

theorem dioFromShr : Alike c dioFromShr := fun s hs => setDio (s.shr.getLsbD 0) s hs

theorem bitCell : Alike c bitCell :=
  cons (setClk _) <| cons dioFromShr <| cons (waitUs _ fun _ => rfl) <| cons (update {}) <| cons (setClk _) <|
    cons (waitUs _ fun _ => rfl) <| cons (update {}) nil

theorem bitCells (n : Nat) : Alike c (bitCells n) := by
  induction n with
  | zero => exact nil
  | succ n ih => exact cons bitCell (cons ih nil)

theorem wrByte (b : Byte) : Alike c (wrByte b) := cons (track _) <| cons (update {}) <| cons (bitCells 8) nil

theorem sendCommand (b : Byte) : Alike c (sendCommand b) :=
  cons trackComposite <| cons start <| cons (wrByte b) <| cons waitAck <| cons stop nil

theorem sendDigits (k : Bool) (ds : List Digit) : Alike c (sendDigits k ds) := by
  induction ds with
  | nil => exact nil
  | cons d ds ih =>
    have hbyte : Alike c fun s => Machine.wrByte (wireGlyph s.cfg k d) s :=
      fun s hs => wrByte (wireGlyph s.cfg k d) s hs
    exact cons hbyte <| cons waitAck <| cons (update {}) <| cons ih nil

theorem sendFrame (k : Bool) (dcmd addr : Byte) (ds : List Digit) (disp : Byte) :
    Alike c (sendFrame k dcmd addr ds disp) :=
  cons (sendCommand dcmd) <| cons start <| cons (wrByte addr) <| cons waitAck <| cons (update {}) <|
    cons (sendDigits k ds) <| cons stop <| cons (sendCommand disp) nil

theorem wrFrame (n : Nat) (k : Bool) (dcmd addr : Byte) (ls : Vector Digit 6) (disp : Byte) :
    Alike c (wrFrame n k dcmd addr ls disp) :=
  branch (fun _ => rfl)
    (cons trackComposite <| cons (either _ (sendFrame k dcmd addr (firstDigits n ls) disp) (raiseHalt .glyphRange)) nil)
    (refuse .frameLength)

/-! The session (43_session.md) -/

/-- `CTRLEDGE`'s last three writes, after which both counters are 0 in Focus; no line stands between them. -/
theorem freshSession : Alike c (prog [setMode .focus, setTgt Config.tFocus, setCyc 0]) := fun s hs => by
  refine .ok (s := { s with mode := .focus, tgt := s.cfg.tFocus, cyc := 0 }) ⟨hs.cfg, hs.valid, hs.variant, ?_⟩
  exact hs.restart.counter

theorem haltTimer : Alike c haltTimer := fun s hs => raiseHalt (if s.run then .timerStart else .timerStop) s hs

theorem ctrlEdge : Alike c ctrlEdge :=
  cons (update {}) <| cons driveTmrRun <|
    cons (sampleTmrFail fun f => either f haltTimer (cons clearSec freshSession)) nil

/-- `ROLL` after its first two writes, between which the counters are not beside each other. -/
theorem roll_eq (k : Nat → Op) (s : State) : Machine.roll k s =
    prog [Machine.clearSec, setTgt fun c => dur c (nextMode s.cfg s.mode s.cyc).mode,
      k (nextMode s.cfg s.mode s.cyc).pulses] (enterMode (nextMode s.cfg s.mode s.cyc) s) := rfl

theorem setTgt_dur (m : Mode) : Alike c (setTgt fun c => dur c m) := update { twin := fun _ => by cases m <;> rfl }

theorem roll {k : Nat → Op} (hk : ∀ n, Alike c (k n)) : Alike c (roll k) := fun s hs => by
  obtain ⟨hnext, hrange⟩ := nextMode_beside hs.valid hs.variant hs.counter
  have hB : nextMode s.twinB.cfg s.twinB.mode s.twinB.cyc = _ := hs.cfg ▸ hnext
  rw [roll_eq, roll_eq, hB, hs.cfg]
  exact cons clearSec (cons (setTgt_dur _) (cons (hk _) nil)) (enterMode (nextMode c s.mode s.cyc) s)
    ⟨hs.cfg, hs.valid, hs.variant, hrange⟩

theorem funcEdge : Alike c funcEdge := roll fun _ => nil

theorem pulse (p : Nat) : Alike c (pulse p) :=
  cons (setBuz _) <| cons (waitMs _ fun _ => rfl) <| cons (setBuz _) <|
    cons (either (2 ≤ p) (waitMs _ fun _ => rfl) nil) nil

theorem pulses (p n : Nat) : Alike c (pulses p n) := by
  induction n with
  | zero => exact nil
  | succ n ih => exact cons (pulse p) (cons ih nil)

theorem cue (p : Nat) : Alike c (cue p) := either (p = 0) (refuse .illegalWord) (pulses p p)

theorem autoRoll : Alike c autoRoll := roll cue

/-! The debounce filter and the digit encoder (42_debounce.md, 40_digit_encoder.md) -/

theorem fire (u : Button) : Alike c (fire u) := by
  cases u
  · exact ctrlEdge
  · exact funcEdge

theorem dbObserve (u : Button) (r : Bool) (t : Nat) : Alike c (dbObserve u r t) :=
  update (aside_setDb u fun d => d.observe r t)

theorem dbCommit (u : Button) (r : Bool) (t : Nat) : Alike c (dbCommit u r t) := by
  have hcommits : ∀ s : State, commits s.twinB.cfg (s.twinB.db u) r t = commits s.cfg (s.db u) r t := by
    cases u <;> exact fun _ => rfl
  refine branch hcommits (fun s hs => ?_) nil
  exact cons (update (aside_setDb u fun d => d.commit r)) (cons (either (r == s.cfg.active) (fire u) nil) nil) s hs

theorem dbPoll (u : Button) : Alike c (dbPoll u) :=
  sampleBtn u fun r => sampleTick fun t => cons (dbObserve u r t) <| cons (dbCommit u r t) nil

theorem encodeDigits (e : Nat) {k : Digits → Op} (hk : ∀ d, Alike c (k d)) : Alike c (encodeDigits e k) :=
  either (digitRangeOk e) (hk (toDigits e)) (raiseHalt .digitRange)

theorem toDigitsOp : Alike c toDigitsOp := fun s hs => encodeDigits s.busSec (fun _ => update {}) s hs

/-! The coordinator and the scheduler (44_refresh_scheduler.md) -/

theorem sendDisplay : Alike c sendDisplay := fun s hs =>
  wrFrame s.cfg.nBuf s.blink s.cfg.cmdData s.cfg.cmdAddr s.refreshDigits s.cfg.cmdDisp s hs

theorem render (e : Nat) : Alike c (render e) :=
  encodeDigits e fun _ => cons (update {}) <| cons (update {}) <| cons sendDisplay <| cons (update {}) nil

theorem refresh : Alike c refresh :=
  sampleSec fun e => branch (fun _ => rfl)
    (branch (fun _ => rfl) (cons autoRoll (cons (render 0) nil)) (render e)) nil

theorem phaseBody (p : Phase) : Alike c (phaseBody p) := by
  cases p
  · exact dbPoll .ctrl
  · exact dbPoll .func
  · exact refresh

theorem phaseStep (p : Phase) : Alike c (phaseStep p) := cons (phaseBody p) <| cons (update {}) nil

theorem iter : Alike c iter := cons (update {}) <| cons (phaseStep _) <| cons (phaseStep _) <| cons (phaseStep _) nil

end Alike

/-! ### Whole operations and steps -/

/-- The two machines answer alike: by the states beside each other, or by the same refusal. -/
def AnswersAlike (c : Config) (x y : Host.Outcome State Fault Refusal) : Prop :=
  (∀ t, x = .next t → y = .next t.twinB ∧ RangedA c t) ∧ ∀ r, x = .refused r → y = .refused r

theorem EndsBeside.toOutcome {c : Config} {f g : Flow} (h : EndsBeside c f g) :
    AnswersAlike c f.toOutcome g.toOutcome := by
  cases h with
  | ok hs => exact ⟨fun t ht => by cases ht; exact ⟨rfl, hs⟩, fun r hr => nomatch hr⟩
  | ended hs => exact ⟨fun t ht => by cases ht; exact ⟨rfl, hs⟩, fun r hr => nomatch hr⟩
  | refused r => exact ⟨fun t ht => (nomatch ht), fun r hr => hr⟩

theorem Alike.runOp {c : Config} {o : Op} (ho : Alike c o) {s : State} (hs : RangedA c s) :
    AnswersAlike c (runOp o s) (runOp o s.twinB) := by
  have hrst : s.twinB.rst = s.rst := rfl
  have hhalt : s.twinB.halt = s.halt := rfl
  unfold Machine.runOp
  rw [hrst, hhalt]
  split
  · exact (EndsBeside.ended hs.restart).toOutcome
  · split
    · exact (Alike.envPoint s hs).toOutcome
    · exact (ho s hs).toOutcome

theorem exec_alike {c : Config} (i : Instr) {s : State} (hs : RangedA c s) :
    AnswersAlike c (exec i s) (exec i s.twinB) := by
  cases i with
  | start => exact Alike.start.runOp hs
  | stop => exact Alike.stop.runOp hs
  | wrbyte b => exact (Alike.wrByte b).runOp hs
  | waitack => exact Alike.waitAck.runOp hs
  | wrdatacmd b => exact (Alike.sendCommand b).runOp hs
  | wrdispcmd b => exact (Alike.sendCommand b).runOp hs
  | wrframe k n => exact (Alike.wrFrame n.toNat k _ _ _ _).runOp hs
  | todigits => exact Alike.toDigitsOp.runOp hs
  | dbpoll u => exact (Alike.dbPoll u).runOp hs
  | ctrledge => exact Alike.ctrlEdge.runOp hs
  | funcedge => exact Alike.funcEdge.runOp hs
  | autoroll => exact Alike.autoRoll.runOp hs
  | refresh => exact Alike.refresh.runOp hs
  | cue p => exact (Alike.cue p.toNat).runOp hs
  | iter => exact Alike.iter.runOp hs

theorem step_alike {c : Config} {s : State} (hs : RangedA c s) : AnswersAlike c (step s) (step s.twinB) := by
  have hissued : s.twinB.issued = s.issued := rfl
  unfold step
  rw [hissued]
  split
  · exact (Alike.phaseStep s.ph).runOp hs
  · next q rest _ =>
    split
    · next i _ => exact exec_alike i (hs.of_aside (f := fun s => s.accept q rest) {})
    · exact (EndsBeside.refused _).toOutcome

/-- Settles O34: the table and its run are computed, the relation at reset is an equality of states, and every step
keeps it together with the range of variant A's counter. -/
theorem cycleVariantsAreEquivalent : Obligations.CycleVariantsAreEquivalent := by
  refine ⟨fun c n hvar hn => shortExitTable hvar hn, by decide, fun _ => rfl, fun s hvalid hvar hrange => ?_⟩
  obtain ⟨hnext, hrefused⟩ := step_alike (c := s.cfg) ⟨rfl, hvalid, hvar, hrange⟩
  refine ⟨fun t ht => ?_, hrefused⟩
  obtain ⟨htwin, hcfg, -, -, hcounter⟩ := hnext t ht
  exact ⟨htwin, hcfg, hcfg.symm ▸ hcounter⟩

end Sys2Proof.Proofs

namespace Sys2Proof.Proofs

open Sys2Proof Sys2Proof.Machine

/-! ### `REFRESH` as a whole operation, by its one sample of `SEC` (44_refresh_scheduler.md R217) -/

theorem exec_refresh (s : State) : exec .refresh s = runOp refresh s := rfl

theorem exec_refresh_of_unchanged {s : State} (hh : s.halt = false) (h : s.NoReset) (hlast : s.envMove.sec = s.last) :
    exec .refresh s = .next s.envMove := by
  have hrun := refresh_of_noReset s h
  rw [if_pos hlast] at hrun
  rw [exec_refresh]
  exact runOp_of_ok hh (rst_not_due_of_none h.1) hrun

/-- Off the target a changed sample is rendered as it is. -/
theorem refresh_of_changed {s : State} (h : s.NoReset) (hlast : s.envMove.sec ≠ s.last) (htgt : s.envMove.sec ≠ s.tgt) :
    refresh s = render s.envMove.sec s.envMove := by
  rw [refresh_of_noReset s h, if_neg hlast, if_neg htgt]

theorem exec_refresh_of_large {s : State} (hh : s.halt = false) (h : s.NoReset) (hlast : s.envMove.sec ≠ s.last)
    (htgt : s.envMove.sec ≠ s.tgt) (hlarge : 6000 ≤ s.envMove.sec) :
    exec .refresh s = .next { s.envMove with halt := true, hcause := .digitRange } := by
  rw [exec_refresh]
  exact runOp_of_ended hh (rst_not_due_of_none h.1)
    ((refresh_of_changed h hlast htgt).trans (render_of_large _ _ hlarge))

theorem exec_refresh_of_drawn {s : State} (hh : s.halt = false) (h : s.NoReset) (hlast : s.envMove.sec ≠ s.last)
    (htgt : s.envMove.sec ≠ s.tgt) (hlt : s.envMove.sec < 6000) (hf : compositeOk s.framing = true)
    (hn : FrameFits s.cfg) : exec .refresh s = .next (s.envMove.rendered s.envMove.sec) := by
  have hrender : render s.envMove.sec s.envMove = .ok (s.envMove.rendered s.envMove.sec) :=
    render_of_rst_none _ _ h.envMove.1 hlt (by rwa [State.envMove_framing]) (by rwa [State.envMove_cfg])
  rw [exec_refresh]
  exact runOp_of_ok hh (rst_not_due_of_none h.1) ((refresh_of_changed h hlast htgt).trans hrender)

theorem exec_autoroll_of_noReset {s : State} (hh : s.halt = false) (h : s.NoReset) :
    exec .autoroll s = .next s.autoRolled := by
  rw [exec_autoroll]
  exact runOp_of_ok hh (rst_not_due_of_none h.1) (autoRoll_of_noReset s h)

theorem exec_refresh_of_rollover {s : State} (hh : s.halt = false) (h : s.NoReset) (hlast : s.envMove.sec ≠ s.last)
    (htgt : s.envMove.sec = s.tgt) (hf : compositeOk s.framing = true) (hn : FrameFits s.cfg) :
    exec .refresh s = .next (s.envMove.autoRolled.rendered 0) := by
  rw [exec_refresh]
  exact runOp_of_ok hh (rst_not_due_of_none h.1) (refresh_of_rollover s h hlast htgt hf hn)

/-! ### What is drawn with four digits (30_encoding.md R118) -/

@[simp] theorem autoRolled_cfg (s : State) : s.autoRolled.cfg = s.cfg := by simp [State.autoRolled, State.rolled]

@[simp] theorem autoRolled_blink (s : State) : s.autoRolled.blink = s.blink := by simp [State.autoRolled, State.rolled]

/-- Rendering from a state `t` that has the configuration and the `BLINK` of `s`: a frame of `N_BUF = 4` digits reads
`DIG[0..3]` and neither of the two lines the coordinator leaves undriven. -/
theorem rendered_of_four_digits {s t : State} (e : Nat) (hcfg : t.cfg = s.cfg) (hblink : t.blink = s.blink)
    (hfour : s.cfg.nBuf = 4) :
    t.rendered e = { t with
      dig := toDigits e
      blink := !s.blink
      clk := true
      dio := true
      shr := 0
      bitc := 0
      idx := 4
      trace := t.trace ++ frameEvents s.cfg (!s.blink) s.cfg.cmdData s.cfg.cmdAddr
        [(toDigits e).d0, (toDigits e).d1, (toDigits e).d2, (toDigits e).d3] s.cfg.cmdDisp
      last := e } := by
  rw [State.rendered, hcfg, hblink, hfour]
  rfl

theorem toDigits_zero : toDigits 0 = ⟨0, 0, 0, 0⟩ := rfl

/-- Settles O35: the sample of `SEC` against `LAST`, `TGT` and 6000 selects the clause; the two that draw are `rendered`,
from the sampled second or from 0 after the rollover. -/
theorem refreshFollowsTheSecond : Obligations.RefreshFollowsTheSecond := by
  refine ⟨by decide, fun s hh h => ⟨exec_refresh_of_unchanged hh h, exec_refresh_of_large hh h,
    fun hfour hn hframing hlast => ?changed⟩⟩
  case changed =>
    have hf : compositeOk s.framing = true := compositeOk_iff.mpr hframing
    refine ⟨fun htgt hlt => ?drawn, fun htgt => ⟨s.envMove.autoRolled, ?rolls, ?rollover⟩⟩
    case drawn =>
      rw [exec_refresh_of_drawn hh h hlast htgt hlt hf hn,
        rendered_of_four_digits _ s.envMove_cfg s.envMove_blink hfour, State.envMove_trace]
    case rolls => exact exec_autoroll_of_noReset (s.envMove_halt.trans hh) h.envMove
    case rollover =>
      rw [exec_refresh_of_rollover hh h hlast htgt hf hn,
        rendered_of_four_digits (s := s) 0 (by simp) (by simp) hfour, toDigits_zero]

end Sys2Proof.Proofs

namespace Sys2Proof.Proofs

open Sys2Proof Sys2Proof.Machine

/-! ### The formats of the low byte, read backwards (30_encoding.md R111, R114) -/

/-- A word is its two fields. -/
theorem microWord_fields (w : MicroWord) : microWord (opField w) (lowField w) = w := by
  apply BitVec.eq_of_getLsbD_eq
  intro j hj
  simp only [microWord, opField, lowField, BitVec.getLsbD_append, BitVec.getLsbD_extractLsb']
  split
  · next hlow => simp [hlow]
  · next hhigh =>
    have hindex : 8 + (j - 8) = j := by omega
    simp only [hindex, show j - 8 < 4 by omega, decide_true, Bool.true_and]

/-- A low byte in format F is its blink flag and its digit count. -/
theorem formatF_fields {low : BitVec 8} (h : low.extractLsb' 4 4 = 0#4) :
    0#4 ++ BitVec.ofBool (low.getLsbD 3) ++ low.extractLsb' 0 3 = low := by
  revert low; decide

theorem formatU_fields {low : BitVec 8} (h : low.extractLsb' 1 7 = 0#7) :
    0#7 ++ BitVec.ofBool (low.getLsbD 0) = low := by
  revert low; decide

theorem formatC_fields {low : BitVec 8} (h : low.extractLsb' 2 6 = 0#6) : 0#6 ++ low.extractLsb' 0 2 = low := by
  revert low; decide

/-! What each format accepts is well formed and encodes to the byte it was read from. -/

theorem encode_of_decodeZ {op : BitVec 4} {i j : Instr} {low : BitVec 8} (hwf : i.wellFormed = true)
    (hword : encode i = microWord op 0) (h : decodeZ i low = .ok j) :
    j.wellFormed = true ∧ encode j = microWord op low := by
  rw [decodeZ] at h
  split at h
  · next hlow =>
    cases h
    exact ⟨hwf, hlow ▸ hword⟩
  · cases h

theorem encode_of_decodeF {j : Instr} {low : BitVec 8} (h : decodeF low = .ok j) :
    j.wellFormed = true ∧ encode j = microWord 0x6 low := by
  rw [decodeF] at h
  split at h
  · cases h
  · next hhigh =>
    split at h
    · next hcount =>
      cases h
      exact ⟨decide_eq_true hcount, congrArg (microWord 0x6) (formatF_fields (not_not.mp hhigh))⟩
    · cases h

theorem encode_of_decodeU {j : Instr} {low : BitVec 8} (h : decodeU low = .ok j) :
    j.wellFormed = true ∧ encode j = microWord 0x8 low := by
  rw [decodeU] at h
  split at h
  · cases h
  · next hhigh =>
    cases h
    refine ⟨rfl, congrArg (microWord 0x8) ?_⟩
    have hbit : ((if low.getLsbD 0 then Button.func else .ctrl) == .func) = low.getLsbD 0 := by
      cases low.getLsbD 0 <;> rfl
    rw [hbit, formatU_fields (not_not.mp hhigh)]

theorem encode_of_decodeC {j : Instr} {low : BitVec 8} (h : decodeC low = .ok j) :
    j.wellFormed = true ∧ encode j = microWord 0xD low := by
  rw [decodeC] at h
  split at h
  · cases h
  · next hhigh =>
    split at h
    · cases h
    · next hpulse =>
      cases h
      exact ⟨decide_eq_true hpulse, congrArg (microWord 0xD) (formatC_fields (not_not.mp hhigh))⟩

/-- Format B: the whole low byte is the operand. -/
theorem encode_of_decodeB {op : BitVec 4} {i j : Instr} {low : BitVec 8} (hwf : i.wellFormed = true)
    (hword : encode i = microWord op low) (h : Except.ok (ε := DecodeError) i = .ok j) :
    j.wellFormed = true ∧ encode j = microWord op low := by
  cases h
  exact ⟨hwf, hword⟩

/-- Settles O2, by the identifier: it selects the format, and what the format accepts encodes to the same low byte. -/
theorem decodedWordIsItsEncoding : Obligations.DecodedWordIsItsEncoding := by
  intro w i h
  rw [decode] at h
  rw [← microWord_fields w]
  have hop : ∀ {n : Nat} (hn : n < 2 ^ 4), (opField w).toNat = n → opField w = BitVec.ofNat 4 n := by
    intro n hn hw
    exact BitVec.eq_of_toNat_eq (by rw [hw, BitVec.toNat_ofNat, Nat.mod_eq_of_lt hn])
  split at h
  case h_1 hw | h_2 hw | h_4 hw | h_8 hw | h_10 hw | h_11 hw | h_12 hw | h_13 hw | h_15 hw =>
    rw [hop (by decide) hw]; exact encode_of_decodeZ rfl rfl h
  case h_3 hw | h_5 hw | h_6 hw => rw [hop (by decide) hw]; exact encode_of_decodeB rfl rfl h
  case h_7 hw => rw [hop (by decide) hw]; exact encode_of_decodeF h
  case h_9 hw => rw [hop (by decide) hw]; exact encode_of_decodeU h
  case h_14 hw => rw [hop (by decide) hw]; exact encode_of_decodeC h
  case h_16 => cases h

/-! ### The formats read forwards -/

theorem decodeF_of_frame {k : Bool} {n : BitVec 3} (h : (Instr.wrframe k n).wellFormed = true) :
    decodeF (0#4 ++ BitVec.ofBool k ++ n) = .ok (.wrframe k n) := by
  revert k n; decide

theorem decodeU_of_button (u : Button) : decodeU (0#7 ++ BitVec.ofBool (u == .func)) = .ok (.dbpoll u) := by
  cases u <;> decide

theorem decodeC_of_cue {p : BitVec 2} (h : (Instr.cue p).wellFormed = true) : decodeC (0#6 ++ p) = .ok (.cue p) := by
  revert p; decide

/-- The word of an operation reaches its own row of the operation map. -/
theorem decode_microWord (op : BitVec 4) (low : BitVec 8) {x : Except DecodeError Instr}
    (h : ∀ w : MicroWord, opField w = op → lowField w = low → decode w = x) : decode (microWord op low) = x :=
  h _ (Laws.opField_microWord op low) (lowField_microWord op low)

/-- Settles O1, operation by operation: the identifier selects the operation's own format, which gives the operands
back. -/
theorem encodedWordDecodesBack : Obligations.EncodedWordDecodesBack := by
  intro i hwf
  cases i
  case wrframe k n =>
    refine decode_microWord _ _ fun w hop hlow => ?_
    rw [decode_of_op_formatF hop, hlow, decodeF_of_frame hwf]
  case dbpoll u =>
    refine decode_microWord _ _ fun w hop hlow => ?_
    rw [decode_of_op_formatU hop, hlow, decodeU_of_button]
  case cue p =>
    refine decode_microWord _ _ fun w hop hlow => ?_
    rw [decode_of_op_formatC hop, hlow, decodeC_of_cue hwf]
  case wrbyte b => exact decode_microWord _ _ fun w hop hlow => by simp [decode, hop, hlow]
  case wrdatacmd b => exact decode_microWord _ _ fun w hop hlow => by simp [decode, hop, hlow]
  case wrdispcmd b => exact decode_microWord _ _ fun w hop hlow => by simp [decode, hop, hlow]
  all_goals exact decode_microWord _ _ fun w hop hlow => by simp [decode, decodeZ, hop, hlow]

/-- Settles O4, word by word. -/
theorem sampleWordsDecode : Obligations.SampleWordsDecode := by
  refine ⟨?_, ?_, ?_, ?_, ?_, ?_, ?_, ?_, ?_, ?_⟩ <;> decide

end Sys2Proof.Proofs

namespace Sys2Proof.Proofs

open Sys2Proof Sys2Proof.Machine

/-! ### The moves of the environment and the widths of the counters (10_state.md R20, R35, R36) -/

/-- What every single move keeps, the moves that fall before a line keep. -/
theorem envMove_induction {P : State → Prop} (hmove : ∀ s m, P s → P (s.move m))
    (henv : ∀ s es, P s → P { s with env := es }) {s : State} (hs : P s) : P s.envMove := by
  have hfold : ∀ (ms : List EnvMove) (s : State), P s → P (ms.foldl State.move s) := by
    intro ms
    induction ms with
    | nil => exact fun s hs => hs
    | cons m ms ih => exact fun s hs => ih _ (hmove s m hs)
  unfold State.envMove
  split
  · exact hs
  · exact hfold _ _ (henv s _ hs)

theorem addMod_lt (w a b : Nat) : addMod w a b < 2 ^ w := Nat.mod_lt _ (Nat.two_pow_pos w)

/-- A move writes at most the two counters of the tick source, each modulo its width. -/
theorem widthsOk_move {s : State} (hs : WidthsOk s) (m : EnvMove) : WidthsOk (s.move m) := by
  rcases m with _ | _ | ⟨u, v⟩ | v | k
  case msTick => exact ⟨addMod_lt _ _ _, hs.sec, hs.tgt, hs.last, hs.cyc, hs.chg⟩
  case secTick =>
    simp only [State.move]
    split
    · exact ⟨hs.tick, addMod_lt _ _ _, hs.tgt, hs.last, hs.cyc, hs.chg⟩
    · exact hs
  case btn => cases u <;> exact ⟨hs.tick, hs.sec, hs.tgt, hs.last, hs.cyc, hs.chg⟩
  case tmrFail => exact ⟨hs.tick, hs.sec, hs.tgt, hs.last, hs.cyc, hs.chg⟩
  case rst => exact ⟨hs.tick, hs.sec, hs.tgt, hs.last, hs.cyc, hs.chg⟩

theorem widthsOk_envMove {s : State} (hs : WidthsOk s) : WidthsOk s.envMove :=
  envMove_induction (P := WidthsOk) (fun _ m h => widthsOk_move h m)
    (fun _ _ h => ⟨h.tick, h.sec, h.tgt, h.last, h.cyc, h.chg⟩) hs

/-! ### The values that are written to the counters fit -/

theorem dur_lt_of_valid {c : Config} (hc : c.Valid) (m : Mode) : dur c m < 2 ^ c.wSec := by
  obtain ⟨-, -, hfocus⟩ := hc.focus
  obtain ⟨-, -, hshort⟩ := hc.short
  obtain ⟨-, -, hlong⟩ := hc.long
  cases m
  · exact hfocus
  · exact hshort
  · exact hlong

/-- A rollover leaves the counter, increments it modulo its width, or clears it. -/
theorem nextMode_cyc_cases (c : Config) (m : Mode) (n : Nat) :
    (nextMode c m n).cyc = n ∨ (nextMode c m n).cyc = addMod c.wCyc n 1 ∨ (nextMode c m n).cyc = 0 := by
  cases hvar : c.cycVariant with
  | atFocusExit =>
    rw [nextMode_atFocusExit hvar]
    cases m <;> simp only [nextAtFocusExit, true_or, or_true]
    split <;> simp
  | atShortExit =>
    rw [nextMode_atShortExit hvar]
    cases m <;> simp only [nextAtShortExit, true_or, or_true]
    split <;> simp

theorem nextMode_cyc_lt {c : Config} (m : Mode) {n : Nat} (hn : n < 2 ^ c.wCyc) :
    (nextMode c m n).cyc < 2 ^ c.wCyc := by
  rcases nextMode_cyc_cases c m n with h | h | h <;> rw [h]
  · exact hn
  · exact addMod_lt _ _ _
  · exact Nat.two_pow_pos _

/-! ### Every line keeps the widths -/

/-- What O43 assumes of the state a step begins in. -/
def BeginsSized (s₀ : State) : Prop := s₀.cfg.Valid ∧ WidthsOk s₀

/-- A state on the way from `s₀`: the configuration is that of `s₀`, and the widths are kept. -/
structure Sized (s₀ s : State) : Prop where
  cfg : s.cfg = s₀.cfg
  widths : BeginsSized s₀ → WidthsOk s

/-- The values the operations may write to the counters on the way from `s₀`. -/
def sizedValues (s₀ : State) : Values where
  last v := BeginsSized s₀ → v < 2 ^ s₀.cfg.wSec
  chg v := BeginsSized s₀ → v < 2 ^ s₀.cfg.wTick
  cyc v := BeginsSized s₀ → v < 2 ^ s₀.cfg.wCyc

namespace Sized

variable {s₀ s t : State}

/-- A write to anything but the counters. -/
theorem of_counters_eq (hs : Sized s₀ s)
    (h : (t.cfg, t.tick, t.sec, t.tgt, t.last, t.cyc, t.db) = (s.cfg, s.tick, s.sec, s.tgt, s.last, s.cyc, s.db)) :
    Sized s₀ t := by
  simp only [Prod.mk.injEq] at h
  obtain ⟨hcfg, htick, hsec, htgt, hlast, hcyc, hdb⟩ := h
  refine ⟨hcfg.trans hs.cfg, fun hc => ?_⟩
  obtain ⟨wtick, wsec, wtgt, wlast, wcyc, wchg⟩ := hs.widths hc
  constructor <;> simpa only [hcfg, htick, hsec, htgt, hlast, hcyc, hdb]

theorem setDb {u : Button} {d : Debounce} (hs : Sized s₀ s) (hd : BeginsSized s₀ → d.chg < 2 ^ s₀.cfg.wTick) :
    Sized s₀ (s.setDb u d) := by
  refine ⟨(s.setDb_cfg u d).trans hs.cfg, fun hc => ?_⟩
  obtain ⟨wtick, wsec, wtgt, wlast, wcyc, wchg⟩ := hs.widths hc
  refine ⟨?_, ?_, ?_, ?_, ?_, fun v => ?_⟩
  case refine_6 =>
    rw [State.setDb_cfg]
    by_cases hv : v = u
    · rw [hv, State.db_setDb, hs.cfg]; exact hd hc
    · rw [State.db_setDb_of_ne s d hv]; exact wchg v
  all_goals simpa only [State.setDb_cfg, State.setDb_tick, State.setDb_sec, State.setDb_tgt, State.setDb_last,
    State.setDb_cyc]

theorem envMove (hs : Sized s₀ s) : Sized s₀ s.envMove :=
  ⟨s.envMove_cfg.trans hs.cfg, fun hc => widthsOk_envMove (hs.widths hc)⟩

theorem restart (hs : Sized s₀ s) : Sized s₀ s.restart := by
  refine ⟨hs.cfg, fun hc => ⟨(hs.widths hc).tick, Nat.two_pow_pos _, ?_, Nat.two_pow_pos _, Nat.two_pow_pos _, ?_⟩⟩
  · exact dur_lt_of_valid (hs.cfg.symm ▸ hc.1) .focus
  · intro u
    cases u <;> exact Nat.two_pow_pos _

theorem line (hs : Sized s₀ s) : (line s).Sat (Sized s₀) (Sized s₀) :=
  line_sat s hs (fun _ => hs.of_counters_eq rfl) hs.restart

theorem kept (s₀ : State) : Kept (sizedValues s₀) (Sized s₀) (Sized s₀) where
  line _ hs := hs.line
  envPoint _ hs := hs.envMove.line
  log _ _ hs := hs.of_counters_eq rfl
  clk _ _ hs := hs.of_counters_eq rfl
  dio _ _ hs := hs.of_counters_eq rfl
  idx _ _ hs := hs.of_counters_eq rfl
  shr _ _ hs := hs.of_counters_eq rfl
  bitc _ _ hs := hs.of_counters_eq rfl
  framing _ _ hs := hs.of_counters_eq rfl
  buz _ _ hs := hs.of_counters_eq rfl
  tmrRun _ _ hs := hs.of_counters_eq rfl
  run _ _ hs := hs.of_counters_eq rfl
  mode _ _ hs := hs.of_counters_eq rfl
  dig _ _ hs _ := hs.of_counters_eq rfl
  blink _ _ hs := hs.of_counters_eq rfl
  qDig _ _ hs := hs.of_counters_eq rfl
  timerHalt _ _ hs _ _ := hs.of_counters_eq rfl
  digitHalt _ _ hs _ _ := hs.of_counters_eq rfl
  secClear _ hs := ⟨hs.cfg, fun hc => { hs.widths hc with sec := Nat.two_pow_pos _ }⟩
  cyc _ _ hs hv := ⟨hs.cfg, fun hc => { hs.widths hc with cyc := hs.cfg.symm ▸ hv hc }⟩
  tgt _ m hs := ⟨hs.cfg, fun hc => { hs.widths hc with tgt := dur_lt_of_valid (hs.cfg.symm ▸ hc.1) m }⟩
  last _ _ hs hv := ⟨hs.cfg, fun hc => { hs.widths hc with last := hs.cfg.symm ▸ hv hc }⟩
  nextCyc s hs hc := hs.cfg ▸ nextMode_cyc_lt s.mode (hs.widths hc).cyc
  zeroCyc _ := Nat.two_pow_pos _
  zeroLast _ := Nat.two_pow_pos _
  sampleLast _ hs hc := hs.cfg ▸ (hs.widths hc).sec
  sampleChg _ hs hc := hs.cfg ▸ (hs.widths hc).tick
  observe _ _ _ _ hs hv := hs.setDb hv
  commit _ u _ hs := hs.setDb fun hc => hs.cfg ▸ (hs.widths hc).chg u

end Sized

/-- Settles O43: every line of every operation keeps the configuration and, from widths that fit, the widths. -/
theorem widthsAreKept : Obligations.WidthsAreKept := by
  intro s t hstep
  have hsized : Sized s t :=
    step_sat (Sized.kept s) (fun _ _ h => h.of_counters_eq rfl) (fun _ h => h.restart)
      (fun _ _ _ h => h.of_counters_eq rfl) (fun _ _ h _ => h.of_counters_eq rfl) s t ⟨rfl, fun h => h.2⟩ hstep
  exact ⟨hsized.cfg, fun hvalid hwidths => hsized.widths ⟨hvalid, hwidths⟩⟩

end Sys2Proof.Proofs

namespace Sys2Proof.Proofs

open Sys2Proof Sys2Proof.Machine

/-! ### Every operation as a whole operation -/

/-- The lines of an operation, whose wide operands stand on the operand buses `b` (30_encoding.md R113). -/
def opLines (b : OperandBus) : Instr → Op
  | .start => start
  | .stop => stop
  | .wrbyte x => wrByte x
  | .waitack => waitAck
  | .wrdatacmd x => sendCommand x
  | .wrdispcmd x => sendCommand x
  | .wrframe k n => wrFrame n.toNat k b.fDcmd b.fAddr b.fDig b.fDisp
  | .todigits => toDigitsOp
  | .dbpoll u => dbPoll u
  | .ctrledge => ctrlEdge
  | .funcedge => funcEdge
  | .autoroll => autoRoll
  | .refresh => refresh
  | .cue p => cue p.toNat
  | .iter => iter

theorem exec_eq_runOp (i : Instr) (s : State) : exec i s = runOp (opLines s.bus i) s := by cases i <;> rfl

/-! ### Conditions before and after a stretch of an operation -/

/-- From every state in which `P` holds, the stretch `o` leads to one in which `Q` holds, or ends the run in one in
which `E` holds, or is refused. -/
def Triple (E P : State → Prop) (o : Op) (Q : State → Prop) : Prop := ∀ s, P s → (o s).Sat Q E

namespace Triple

variable {E P M Q : State → Prop}

theorem nil : Triple E P (prog []) P := fun _ hs => hs

theorem cons {o : Op} {os : List Op} (ho : Triple E P o M) (hos : Triple E M (prog os) Q) :
    Triple E P (prog (o :: os)) Q := fun s hs => (ho s hs).andThen hos

theorem update {f : State → State} (hf : ∀ s, P s → Q (f s)) : Triple E P (update f) Q := hf

/-- An output line: the line passes, then the port is driven and the event logged. -/
theorem output {f : State → State} {e : Event} (hline : Triple E P line M) (hf : ∀ s, M s → Q ((f s).log e)) :
    Triple E P (output e f) Q := fun s hs => (hline s hs).andThen hf

theorem either (b : Prop) [Decidable b] {o p : Op} (ho : Triple E P o Q) (hp : Triple E P p Q) :
    Triple E P (if b then o else p) Q := by
  split
  · exact ho
  · exact hp

theorem weaken {o : Op} {P' : State → Prop} (ho : Triple E P o Q) (hP : ∀ s, P' s → P s) : Triple E P' o Q :=
  fun s hs => ho s (hP s hs)

end Triple

/-! ### What the polls, the refresh and the iteration keep, if the operations they call keep it -/

/-- `P` is kept by the writes that polls and refreshes make themselves, and by every operation they call as a whole:
the session's two edges, the automatic rollover and the frame. Inside those it may fail. -/
structure BlocksKept (P E : State → Prop) : Prop where
  envPoint : Triple E P envPoint P
  setDb : ∀ s u d, P s → P (s.setDb u d)
  fire : ∀ u, Triple E P (fire u) P
  autoRoll : Triple E P autoRoll P
  dig : ∀ s e, P s → e < 6000 → P { s with dig := toDigits e }
  blink : ∀ s v, P s → P { s with blink := v }
  last : ∀ s v, P s → P { s with last := v }
  ph : ∀ s v, P s → P { s with ph := v }
  display : Triple E P sendDisplay P
  digitHalt : ∀ s, P s → E { s with halt := true, hcause := .digitRange }

namespace BlocksKept

variable {P E : State → Prop} (h : BlocksKept P E)

include h

theorem dbCommit (u : Button) (r : Bool) (t : Nat) : Triple E P (dbCommit u r t) P := fun s hs => by
  unfold Machine.dbCommit
  split
  · exact Triple.cons (Triple.update fun s hs => h.setDb s u _ hs)
      (Triple.cons (Triple.either (r == s.cfg.active) (h.fire u) Triple.nil) Triple.nil) s hs
  · exact hs

theorem dbPoll (u : Button) : Triple E P (dbPoll u) P := fun s hs =>
  (h.envPoint s hs).andThen fun s1 h1 => (h.envPoint s1 h1).andThen fun s2 h2 =>
    Triple.cons (Triple.update fun s hs => h.setDb s u _ hs) (Triple.cons (h.dbCommit u _ _) Triple.nil) s2 h2

theorem render (e : Nat) : Triple E P (render e) P := by
  by_cases he : e < 6000
  · rw [Machine.render, encodeDigits_of_ok e _ he]
    exact Triple.cons (Triple.update fun s hs => h.dig s e hs he) <|
      Triple.cons (Triple.update fun s hs => h.blink s _ hs) <| Triple.cons h.display <|
      Triple.cons (Triple.update fun s hs => h.last s e hs) Triple.nil
  · rw [Machine.render, encodeDigits_of_large e _ (Nat.not_lt.mp he)]
    exact fun s hs => h.digitHalt s hs

theorem refresh : Triple E P refresh P := fun s hs => by
  refine (h.envPoint s hs).andThen fun t ht => ?_
  simp only []
  split
  · split
    · exact Triple.cons h.autoRoll (Triple.cons (h.render 0) Triple.nil) t ht
    · exact h.render _ t ht
  · exact ht

theorem phaseBody (p : Phase) : Triple E P (phaseBody p) P := by
  cases p
  · exact h.dbPoll .ctrl
  · exact h.dbPoll .func
  · exact h.refresh

theorem phaseStep (p : Phase) : Triple E P (phaseStep p) P :=
  Triple.cons (h.phaseBody p) (Triple.cons (Triple.update fun s hs => h.ph s _ hs) Triple.nil)

theorem iter : Triple E P iter P :=
  Triple.cons (Triple.update fun s hs => h.ph s _ hs) <| Triple.cons (h.phaseStep _) <|
    Triple.cons (h.phaseStep _) <| Triple.cons (h.phaseStep _) Triple.nil

end BlocksKept

/-- `P` is kept by the operations of the serial engine, the digit encoder and the cue, each as a whole. -/
structure EnginesKept (P : State → Prop) : Prop where
  start : Triple P P start P
  stop : Triple P P stop P
  wrByte : ∀ b, Triple P P (wrByte b) P
  waitAck : Triple P P waitAck P
  sendCommand : ∀ b, Triple P P (sendCommand b) P
  wrFrame : ∀ n k dcmd addr ls disp, Triple P P (wrFrame n k dcmd addr ls disp) P
  toDigitsOp : Triple P P toDigitsOp P
  cue : ∀ p, Triple P P (cue p) P

/-- Every whole operation keeps `P`, also where a reset or a halt ends it. -/
structure OperationsKept (P : State → Prop) : Prop where
  blocks : BlocksKept P P
  engines : EnginesKept P
  restart : ∀ s, P s → P s.restart
  accept : ∀ s q rest, P s → P (s.accept q rest)

theorem OperationsKept.lines {P : State → Prop} (h : OperationsKept P) (b : OperandBus) (i : Instr) :
    Triple P P (opLines b i) P := by
  cases i with
  | start => exact h.engines.start
  | stop => exact h.engines.stop
  | wrbyte x => exact h.engines.wrByte x
  | waitack => exact h.engines.waitAck
  | wrdatacmd x => exact h.engines.sendCommand x
  | wrdispcmd x => exact h.engines.sendCommand x
  | wrframe k n => exact h.engines.wrFrame _ _ _ _ _ _
  | todigits => exact h.engines.toDigitsOp
  | dbpoll u => exact h.blocks.dbPoll u
  | ctrledge => exact h.blocks.fire .ctrl
  | funcedge => exact h.blocks.fire .func
  | autoroll => exact h.blocks.autoRoll
  | refresh => exact h.blocks.refresh
  | cue p => exact h.engines.cue _
  | iter => exact h.blocks.iter

theorem OperationsKept.runOp {P : State → Prop} (h : OperationsKept P) {o : Op} (ho : Triple P P o P) {s t : State}
    (hs : P s) (hrun : runOp o s = .next t) : P t :=
  runOp_sat o s t hrun (h.restart s hs) (fun _ => h.blocks.envPoint s hs) fun _ => ho s hs

/-- What every operation keeps, every step keeps. -/
theorem OperationsKept.step {P : State → Prop} (h : OperationsKept P) {s t : State} (hs : P s)
    (hstep : step s = .next t) : P t := by
  rcases step_cases s t hstep with ⟨-, hrun⟩ | ⟨q, rest, i, -, -, hexec⟩
  · exact h.runOp (h.blocks.phaseStep s.ph) hs hrun
  · rw [exec_eq_runOp] at hexec
    exact h.runOp (h.lines _ i) (h.accept s q rest hs) hexec

/-! ### The session's invariant: what it reads, and the lines that leave it alone (10_state.md R40) -/

/-- What `SessionOk` reads of a state. -/
def sessionView (s : State) : Config × Nat × Mode × Nat × Bool × Bool × Bool × Bool × HaltCause × Digits :=
  (s.cfg, s.tgt, s.mode, s.cyc, s.tmrRun, s.run, s.buz, s.halt, s.hcause, s.dig)

theorem sessionOk_of_view {s t : State} (hs : SessionOk s) (h : sessionView t = sessionView s) : SessionOk t := by
  simp only [sessionView, Prod.mk.injEq] at h
  obtain ⟨hcfg, htgt, hmode, hcyc, htmr, hrun, hbuz, hhalt, hcause, hdig⟩ := h
  obtain ⟨valid, target, counter, timer, silent, cause, digits⟩ := hs
  constructor <;> simpa only [hcfg, htgt, hmode, hcyc, htmr, hrun, hbuz, hhalt, hcause, hdig]

theorem sessionView_envMove (s : State) : sessionView s.envMove = sessionView s := by simp [sessionView]

/-- The reset values meet the invariant for every valid configuration (10_state.md R41). -/
theorem sessionOk_resetWith {c : Config} (hc : c.Valid) : SessionOk (State.resetWith c) := by
  refine ⟨hc, rfl, ?_, rfl, rfl, ?_, ?_⟩
  · have hpos : 0 < c.cycLimit := hc.limit.1
    cases hvar : c.cycVariant <;> simpa [State.resetWith, cycInRange, hvar] using hpos
  · simp [State.resetWith]
  · simp [State.resetWith]

theorem sessionOk_restart {s : State} (hc : s.cfg.Valid) : SessionOk s.restart :=
  sessionOk_of_view (sessionOk_resetWith hc) rfl

/-- A write that would mend the invariant: it reads and writes only what the invariant reads. -/
structure Mends (f : State → State) : Prop where
  view : ∀ s t, sessionView s = sessionView t → sessionView (f s) = sessionView (f t)
  cfg : ∀ s, (f s).cfg = s.cfg

/-- The invariant holds but for what the write `f` would mend. -/
def OkBut (f : State → State) (s : State) : Prop := SessionOk (f s)

namespace Mends

variable {f : State → State} (hf : Mends f)

include hf

theorem of_view {s t : State} (hs : OkBut f s) (h : sessionView t = sessionView s) : OkBut f t :=
  sessionOk_of_view (s := f s) hs (hf.view _ _ h)

theorem restart {s : State} (hs : OkBut f s) : SessionOk s.restart :=
  sessionOk_restart (hf.cfg s ▸ hs.valid)

theorem line : Triple SessionOk (OkBut f) line (OkBut f) := fun s hs =>
  line_sat s hs (fun _ => hf.of_view hs rfl) (hf.restart hs)

theorem envPoint : Triple SessionOk (OkBut f) envPoint (OkBut f) := fun s hs =>
  hf.line _ (hf.of_view hs (sessionView_envMove s))

theorem waitMs (n : Config → Nat) : Triple SessionOk (OkBut f) (waitMs n) (OkBut f) := fun s hs =>
  Triple.output hf.line (fun _ ht => hf.of_view ht rfl) s hs

theorem clearSec : Triple SessionOk (OkBut f) clearSec (OkBut f) := fun s hs =>
  (hf.envPoint s hs).andThen fun _ ht => hf.of_view ht rfl

end Mends

theorem mends_nothing : Mends id := ⟨fun _ _ h => h, fun _ => rfl⟩

/-! ### The cue keeps the invariant: the buzzer is silent at its end (43_session.md R194) -/

/-- The write `BUZ <- 0`. -/
def silence (s : State) : State := { s with buz := false }

theorem mends_silence : Mends silence := ⟨fun s t h => by simp_all [sessionView, silence], fun _ => rfl⟩

theorem okBut_silence {s : State} (hs : SessionOk s) (v : Bool) : OkBut silence { s with buz := v } :=
  sessionOk_of_view hs (by simp [sessionView, silence, hs.silent])

theorem pulse_keeps_session (p : Nat) : Triple SessionOk SessionOk (pulse p) SessionOk := by
  have hring : Triple SessionOk SessionOk (setBuz true) (OkBut silence) :=
    Triple.output mends_nothing.line fun s hs => mends_silence.of_view (okBut_silence hs true) rfl
  have hquiet : Triple SessionOk (OkBut silence) (setBuz false) SessionOk :=
    Triple.output mends_silence.line fun s hs => sessionOk_of_view hs rfl
  exact Triple.cons hring <| Triple.cons (mends_silence.waitMs _) <| Triple.cons hquiet <|
    Triple.cons (Triple.either _ (mends_nothing.waitMs _) Triple.nil) Triple.nil

theorem pulses_keep_session (p n : Nat) : Triple SessionOk SessionOk (pulses p n) SessionOk := by
  induction n with
  | zero => exact Triple.nil
  | succ n ih => exact Triple.cons (pulse_keeps_session p) (Triple.cons ih Triple.nil)

theorem cue_keeps_session (p : Nat) : Triple SessionOk SessionOk (cue p) SessionOk :=
  Triple.either _ (fun _ _ => trivial) (pulses_keep_session p p)

/-! ### The rollover keeps the invariant: `TGT` is the new mode's duration at its end (43_session.md R187) -/

/-- The counter's range is kept by the transition table, in both variants. -/
theorem cycInRange_nextMode {c : Config} (hc : c.Valid) {m : Mode} {n : Nat} (hn : cycInRange c m n) :
    cycInRange c (nextMode c m n).mode (nextMode c m n).cyc := by
  cases hvar : c.cycVariant with
  | atFocusExit => exact (nextMode_beside hc hvar hn).2
  | atShortExit =>
    have hpos : 0 < c.cycLimit := hc.limit.1
    rw [nextMode_atShortExit hvar]
    cases m with
    | focus => simpa only [cycInRange, hvar, nextAtShortExit] using hn
    | shortBreak =>
      have hlt : n < c.cycLimit := by simpa only [cycInRange, hvar] using hn
      rw [nextAtShortExit, addMod_one_of_valid hc hlt]
      split
      · simpa only [cycInRange, hvar]
      · simp only [cycInRange, hvar]
    | longBreak => simpa only [cycInRange, hvar, nextAtShortExit] using hpos

/-- The write `TGT <- dur(m)`. -/
def aimAt (m : Mode) (s : State) : State := { s with tgt := dur s.cfg m }

theorem mends_aimAt (m : Mode) : Mends (aimAt m) := ⟨fun s t h => by simp_all [sessionView, aimAt], fun _ => rfl⟩

theorem okBut_aimAt_enterMode {s : State} (hs : SessionOk s) :
    OkBut (aimAt (nextMode s.cfg s.mode s.cyc).mode) (enterMode (nextMode s.cfg s.mode s.cyc) s) :=
  ⟨hs.valid, rfl, cycInRange_nextMode hs.valid hs.counter, hs.timer, hs.silent, hs.cause, hs.digits⟩

theorem roll_keeps_session {k : Nat → Op} (hk : ∀ n, Triple SessionOk SessionOk (k n) SessionOk) :
    Triple SessionOk SessionOk (roll k) SessionOk := fun s hs => by
  have haim : ∀ m, Triple SessionOk (OkBut (aimAt m)) (setTgt fun c => dur c m) SessionOk := fun m =>
    Triple.update fun t ht => ht
  rw [Alike.roll_eq]
  exact Triple.cons (mends_aimAt _).clearSec (Triple.cons (haim _) (Triple.cons (hk _) Triple.nil)) _
    (okBut_aimAt_enterMode hs)

/-! ### `CTRLEDGE` keeps the invariant: `TMR_RUN` follows `RUN` before anything can halt (43_session.md R190) -/

/-- The write `TMR_RUN <- RUN`. -/
def followRun (s : State) : State := { s with tmrRun := s.run }

theorem mends_followRun : Mends followRun := ⟨fun s t h => by simp_all [sessionView, followRun], fun _ => rfl⟩

theorem sessionOk_halted {s : State} {c : HaltCause} (hc : c ≠ .noCause) (hs : SessionOk s) :
    SessionOk { s with halt := true, hcause := c } :=
  ⟨hs.valid, hs.target, hs.counter, hs.timer, hs.silent, by simpa using hc, hs.digits⟩

theorem sessionOk_fresh {s : State} (hs : SessionOk s) :
    SessionOk { s with mode := .focus, tgt := s.cfg.tFocus, cyc := 0 } :=
  ⟨hs.valid, rfl, (sessionOk_restart hs.valid).counter, hs.timer, hs.silent, hs.cause, hs.digits⟩

theorem ctrlEdge_keeps_session : Triple SessionOk SessionOk ctrlEdge SessionOk := by
  have htoggle : Triple SessionOk SessionOk (update fun s => { s with run := !s.run }) (OkBut followRun) :=
    Triple.update fun s hs => ⟨hs.valid, hs.target, hs.counter, rfl, hs.silent, hs.cause, hs.digits⟩
  have hdrive : Triple SessionOk (OkBut followRun) driveTmrRun SessionOk := fun s hs =>
    (mends_followRun.envPoint s hs).andThen fun t ht => sessionOk_of_view ht rfl
  have hhalt : Triple SessionOk SessionOk haltTimer SessionOk := fun s hs =>
    sessionOk_halted (by split <;> simp) hs
  have hfresh : Triple SessionOk SessionOk (prog [setMode .focus, setTgt Config.tFocus, setCyc 0]) SessionOk :=
    fun s hs => sessionOk_fresh (s := s) hs
  exact Triple.cons htoggle <| Triple.cons hdrive <| Triple.cons
    (fun s hs => (mends_nothing.envPoint s hs).andThen
      fun t ht => Triple.either _ hhalt (Triple.cons mends_nothing.clearSec hfresh) t ht) Triple.nil

/-! ### Every operation keeps the invariant -/

/-- No line of the serial engine writes what the invariant reads. -/
theorem wireKept_session : WireKept SessionOk SessionOk where
  line := mends_nothing.line
  log _ _ hs := sessionOk_of_view hs rfl
  clk _ _ hs := sessionOk_of_view hs rfl
  dio _ _ hs := sessionOk_of_view hs rfl
  idx _ _ hs := sessionOk_of_view hs rfl
  shr _ _ hs := sessionOk_of_view hs rfl
  bitc _ _ hs := sessionOk_of_view hs rfl
  framing _ _ hs := sessionOk_of_view hs rfl

theorem wrFrame_keeps_session (n : Nat) (k : Bool) (dcmd addr : Byte) (ls : Vector Digit 6) (disp : Byte) :
    Triple SessionOk SessionOk (wrFrame n k dcmd addr ls disp) SessionOk := fun s hs =>
  wireKept_session.wrFrame n k dcmd addr ls disp s hs fun _ => sessionOk_halted (by simp) hs

theorem toDigitsOp_keeps_session : Triple SessionOk SessionOk toDigitsOp SessionOk := fun s hs => by
  unfold toDigitsOp encodeDigits
  split
  · exact sessionOk_of_view hs rfl
  · exact sessionOk_halted (by simp) hs

theorem blocksKept_session : BlocksKept SessionOk SessionOk where
  envPoint := mends_nothing.envPoint
  setDb s u d hs := sessionOk_of_view hs (by simp [sessionView])
  fire u := by
    cases u
    · exact ctrlEdge_keeps_session
    · exact roll_keeps_session fun _ => Triple.nil
  autoRoll := roll_keeps_session cue_keeps_session
  dig s e hs he := ⟨hs.valid, hs.target, hs.counter, hs.timer, hs.silent, hs.cause, toDigits_bounds he⟩
  blink _ _ hs := sessionOk_of_view hs rfl
  last _ _ hs := sessionOk_of_view hs rfl
  ph _ _ hs := sessionOk_of_view hs rfl
  display s hs := wrFrame_keeps_session _ _ _ _ _ _ s hs
  digitHalt _ hs := sessionOk_halted (by simp) hs

theorem enginesKept_session : EnginesKept SessionOk where
  start := wireKept_session.start
  stop := wireKept_session.stop
  wrByte := wireKept_session.wrByte
  waitAck := wireKept_session.waitAck
  sendCommand := wireKept_session.sendCommand
  wrFrame := wrFrame_keeps_session
  toDigitsOp := toDigitsOp_keeps_session
  cue := cue_keeps_session

theorem operationsKept_session : OperationsKept SessionOk where
  blocks := blocksKept_session
  engines := enginesKept_session
  restart _ hs := sessionOk_restart hs.valid
  accept _ _ _ hs := sessionOk_of_view hs rfl

/-- Settles O41: each operation keeps the invariant as a whole, and a step is one operation. -/
theorem sessionInvariantIsKept : Obligations.SessionInvariantIsKept := fun _ _ hs hstep =>
  operationsKept_session.step hs hstep

end Sys2Proof.Proofs

namespace Sys2Proof.Proofs

open Sys2Proof Sys2Proof.Machine

/-! ### The two lines and the checker, as the lines of an operation leave them (30_encoding.md R96) -/

/-- The bus after a reset: idle, the checker `g` where one is attached in `IDLE`. -/
structure BusReset (g : Option Tracker) (s : State) : Prop where
  framing : s.framing = g
  clk : s.clk = true
  dio : s.dio = true

/-- The checker is in state `f`, which a reset takes to `g`; `CLK` and `DIO` are at the levels `c` and `d` where those
are known. -/
structure OnBus (g f : Option Tracker) (c d : Option Bool) (s : State) : Prop where
  attached : f.map (fun _ => Tracker.idle) = g
  framing : s.framing = f
  clk : ∀ v, c = some v → s.clk = v
  dio : ∀ v, d = some v → s.dio = v

/-- What the bus conditions read of a state. -/
def busView (s : State) : Option Tracker × Bool × Bool := (s.framing, s.clk, s.dio)

/-- A primitive the checker accepts neither attaches nor detaches it. -/
theorem trackNext_attached {f f' : Option Tracker} {p : Prim} (h : trackNext f p = some f') :
    f'.map (fun _ => Tracker.idle) = f.map fun _ => .idle := by
  cases f with
  | none => cases h; rfl
  | some t =>
    simp only [trackNext, Option.map_eq_some_iff] at h
    obtain ⟨t', -, rfl⟩ := h
    rfl

/-- Where a composite may run, a reset leaves the checker as it is. -/
theorem compositeOk_map_idle {f : Option Tracker} (h : compositeOk f = true) : f.map (fun _ => Tracker.idle) = f := by
  rcases compositeOk_cases h with rfl | rfl <;> rfl

namespace OnBus

variable {g f : Option Tracker} {c d : Option Bool} {s t : State}

theorem of_view (hs : OnBus g f c d s) (h : busView t = busView s) : OnBus g f c d t := by
  simp only [busView, Prod.mk.injEq] at h
  obtain ⟨hframing, hclk, hdio⟩ := h
  exact ⟨hs.attached, hframing.trans hs.framing, fun v hv => hclk.trans (hs.clk v hv),
    fun v hv => hdio.trans (hs.dio v hv)⟩

theorem forget (hs : OnBus g f c d s) : OnBus g f none none s :=
  ⟨hs.attached, hs.framing, fun _ h => (nomatch h), fun _ h => (nomatch h)⟩

theorem forgetDio (hs : OnBus g f c d s) : OnBus g f c none s :=
  ⟨hs.attached, hs.framing, hs.clk, fun _ h => (nomatch h)⟩

theorem restart (hs : OnBus g f c d s) : BusReset g s.restart :=
  ⟨by rw [State.restart_framing, hs.framing, hs.attached], rfl, rfl⟩

/-! Single lines -/

theorem line : Triple (BusReset g) (OnBus g f c d) line (OnBus g f c d) := fun s hs =>
  line_sat s hs (fun _ => hs.of_view rfl) hs.restart

theorem setClk (v : Bool) : Triple (BusReset g) (OnBus g f c d) (setClk v) (OnBus g f (some v) d) :=
  Triple.output line fun _ ht => ⟨ht.attached, ht.framing, fun _ h => Option.some.inj h, ht.dio⟩

theorem setDio (v : Bool) : Triple (BusReset g) (OnBus g f c d) (setDio v) (OnBus g f c (some v)) :=
  Triple.output line fun _ ht => ⟨ht.attached, ht.framing, ht.clk, fun _ h => Option.some.inj h⟩

theorem waitUs (n : Config → Nat) : Triple (BusReset g) (OnBus g f c d) (waitUs n) (OnBus g f c d) := fun s hs =>
  Triple.output line (fun _ ht => ht.of_view rfl) s hs

theorem track {f' : Option Tracker} {p : Prim} (h : trackNext f p = some f') :
    Triple (BusReset g) (OnBus g f c d) (track p) (OnBus g f' c d) := fun s hs => by
  rw [track_of_some p s f' (hs.framing.symm ▸ h)]
  exact ⟨(trackNext_attached h).trans hs.attached, rfl, hs.clk, hs.dio⟩

/-! The primitives, from any levels -/

theorem start {f' : Option Tracker} (h : trackNext f .start = some f') :
    Triple (BusReset g) (OnBus g f c d) start (OnBus g f' (some true) (some false)) :=
  .cons (track h) <| .cons (setClk _) <| .cons (setDio _) <| .cons (waitUs _) <| .cons (setDio _) .nil

theorem stop {f' : Option Tracker} (h : trackNext f .stop = some f') :
    Triple (BusReset g) (OnBus g f c d) stop (OnBus g f' (some true) (some true)) :=
  .cons (track h) <| .cons (setClk _) <| .cons (waitUs _) <| .cons (setDio _) <| .cons (waitUs _) <|
    .cons (setClk _) <| .cons (waitUs _) <| .cons (setDio _) .nil

theorem waitAck {f' : Option Tracker} (h : trackNext f .ack = some f') :
    Triple (BusReset g) (OnBus g f c d) waitAck (OnBus g f' (some false) d) :=
  .cons (track h) <| .cons (setClk _) <| .cons (waitUs _) <| .cons (setClk _) <| .cons (waitUs _) <|
    .cons (setClk _) .nil

theorem bitCell : Triple (BusReset g) (OnBus g f c d) bitCell (OnBus g f (some true) none) :=
  have hbit : Triple (BusReset g) (OnBus g f (some false) d) dioFromShr (OnBus g f (some false) none) := fun s hs =>
    (setDio _ s hs).mono (fun _ ht => ht.forgetDio) fun _ ht => ht
  .cons (setClk _) <| .cons hbit <| .cons (waitUs _) <| .cons (Triple.update fun _ ht => ht.of_view rfl) <|
    .cons (setClk _) <| .cons (waitUs _) <| .cons (Triple.update fun _ ht => ht.of_view rfl) .nil

theorem bitCells (n : Nat) : Triple (BusReset g) (OnBus g f c d) (bitCells (n + 1)) (OnBus g f (some true) none) := by
  induction n generalizing c d with
  | zero => exact .cons bitCell (.cons .nil .nil)
  | succ n ih => exact .cons bitCell (.cons ih .nil)

theorem wrByte (b : Byte) {f' : Option Tracker} (h : trackNext f .byte = some f') :
    Triple (BusReset g) (OnBus g f c d) (wrByte b) (OnBus g f' (some true) none) :=
  .cons (track h) <| .cons (Triple.update fun _ ht => ht.of_view rfl) <| .cons (bitCells 7) .nil

/-! The composites, from where the checker lets them run (41_serial_engine.md R141) -/

theorem trackComposite : Triple (BusReset g) (OnBus g f c d) trackComposite (OnBus g f c d) :=
  fun s hs => by
    unfold Machine.trackComposite
    split
    · exact hs
    · trivial

/-- A byte and its acknowledge slot in an open transaction. -/
theorem ackedByte (hf : compositeOk f = true) (b : Byte) {h : Option Tracker} {os : List Op} {Q : State → Prop}
    (hbyte : trackNext h .byte = some (f.map fun _ => .sent))
    (hos : Triple (BusReset g) (OnBus g (f.map fun _ => .open1) (some false) none) (prog os) Q) :
    Triple (BusReset g) (OnBus g h c d) (prog (Machine.wrByte b :: Machine.waitAck :: os)) Q := by
  obtain ⟨-, -, hack, -, -⟩ := track_open hf
  exact .cons (wrByte b hbyte) (.cons (waitAck hack) hos)

theorem sendCommand (hf : compositeOk f = true) (b : Byte) :
    Triple (BusReset g) (OnBus g f c d) (sendCommand b) (OnBus g f (some true) (some true)) := by
  obtain ⟨hstart, hbyte, -, -, hstop⟩ := track_open hf
  exact .cons trackComposite <| .cons (start hstart) <| ackedByte hf b hbyte <| .cons (stop hstop) .nil

theorem sendDigits (hf : compositeOk f = true) (k : Bool) (ds : List Digit) :
    Triple (BusReset g) (OnBus g (f.map fun _ => .open1) (some false) none) (sendDigits k ds)
      (OnBus g (f.map fun _ => .open1) (some false) none) := by
  obtain ⟨-, -, hack, hbyte, -⟩ := track_open hf
  induction ds with
  | nil => exact .nil
  | cons x ds ih =>
    exact .cons (fun s hs => wrByte (wireGlyph s.cfg k x) hbyte s hs) <| .cons (waitAck hack) <|
      .cons (Triple.update fun _ ht => ht.of_view rfl) <| .cons ih .nil

theorem sendFrame (hf : compositeOk f = true) (k : Bool) (dcmd addr : Byte) (ds : List Digit) (disp : Byte) :
    Triple (BusReset g) (OnBus g f c d) (sendFrame k dcmd addr ds disp) (OnBus g f (some true) (some true)) := by
  obtain ⟨hstart, hbyte, -, -, hstop⟩ := track_open hf
  exact .cons (sendCommand hf dcmd) <| .cons (start hstart) <| ackedByte hf addr hbyte <|
    .cons (Triple.update fun _ ht => ht.of_view rfl) <| .cons (sendDigits hf k ds) <| .cons (stop hstop) <|
    .cons (sendCommand hf disp) .nil

/-- `WRFRAME` from an idle bus: a halt leaves the bus as it is. -/
theorem wrFrame (hf : compositeOk f = true) (n : Nat) (k : Bool) (dcmd addr : Byte) (ls : Vector Digit 6)
    (disp : Byte) :
    Triple (BusReset g) (OnBus g f (some true) (some true)) (wrFrame n k dcmd addr ls disp)
      (OnBus g f (some true) (some true)) := fun s hs => by
  unfold Machine.wrFrame
  split
  · have hhalt : Triple (BusReset g) (OnBus g f (some true) (some true)) (raiseHalt .glyphRange)
        (OnBus g f (some true) (some true)) := fun t ht => by
      have hreset : f = g := (compositeOk_map_idle hf).symm.trans ht.attached
      exact ⟨ht.framing.trans hreset, ht.clk _ rfl, ht.dio _ rfl⟩
    exact Triple.cons trackComposite (Triple.cons (Triple.either _ (sendFrame hf _ _ _ _ _) hhalt) Triple.nil) s hs
  · trivial

end OnBus

/-! ### What reads only the bus is kept by everything but the serial engine -/

/-- A condition on the two lines and the checker that holds after a reset. -/
structure BusCondition (P : State → Prop) : Prop where
  of_view : ∀ s t, P s → busView t = busView s → P t
  restart : ∀ s, P s → P s.restart

namespace BusCondition

variable {P : State → Prop} (h : BusCondition P)

include h

theorem line : Triple P P line P := fun s hs => line_sat s hs (fun _ => h.of_view s _ hs rfl) (h.restart s hs)

theorem envPoint : Triple P P envPoint P := fun s hs => h.line _ (h.of_view s _ hs (by simp [busView]))

theorem sessionKept : SessionKept (fun _ => True) P P where
  line := h.line
  envPoint := h.envPoint
  log _ _ hs := h.of_view _ _ hs rfl
  buz _ _ hs := h.of_view _ _ hs rfl
  secClear _ hs := h.of_view _ _ hs rfl
  tmrRun _ _ hs := h.of_view _ _ hs rfl
  run _ _ hs := h.of_view _ _ hs rfl
  mode _ _ hs := h.of_view _ _ hs rfl
  cyc _ _ hs _ := h.of_view _ _ hs rfl
  tgt _ _ hs := h.of_view _ _ hs rfl
  nextCyc _ _ := trivial
  zeroCyc := trivial
  timerHalt _ _ hs _ _ := h.of_view _ _ hs rfl

theorem blocksKept (hdisplay : Triple P P sendDisplay P) : BlocksKept P P where
  envPoint := h.envPoint
  setDb s u d hs := h.of_view s _ hs (by simp [busView])
  fire u := h.sessionKept.fire u
  autoRoll := h.sessionKept.autoRoll
  dig _ _ hs _ := h.of_view _ _ hs rfl
  blink _ _ hs := h.of_view _ _ hs rfl
  last _ _ hs := h.of_view _ _ hs rfl
  ph _ _ hs := h.of_view _ _ hs rfl
  display := hdisplay
  digitHalt _ hs := h.of_view _ _ hs rfl

theorem toDigitsOp : Triple P P toDigitsOp P := fun s hs => by
  unfold Machine.toDigitsOp encodeDigits
  split
  · exact h.of_view s _ hs rfl
  · exact h.of_view s _ hs rfl

end BusCondition

/-! ### The sequencer and the idle bus (10_state.md R40 (f)) -/

theorem busCondition_linesIdle : BusCondition State.LinesIdle where
  of_view s t hs h := by
    simp only [busView, Prod.mk.injEq] at h
    obtain ⟨hframing, hclk, hdio⟩ := h
    simpa only [State.LinesIdle, hframing, hclk, hdio] using hs
  restart s hs := ⟨rfl, rfl, by rw [State.restart_framing, compositeOk_map_idle hs.2.2]; exact hs.2.2⟩

theorem onBus_of_linesIdle {s : State} (hs : s.LinesIdle) : OnBus s.framing s.framing (some true) (some true) s := by
  obtain ⟨hclk, hdio, hf⟩ := hs
  exact ⟨compositeOk_map_idle hf, rfl, fun v hv => hclk.trans (Option.some.inj hv),
    fun v hv => hdio.trans (Option.some.inj hv)⟩

/-- A frame sent from an idle bus leaves it idle. -/
theorem wrFrame_keeps_linesIdle (n : Nat) (k : Bool) (dcmd addr : Byte) (ls : Vector Digit 6) (disp : Byte) :
    Triple State.LinesIdle State.LinesIdle (wrFrame n k dcmd addr ls disp) State.LinesIdle := fun s hs => by
  obtain ⟨-, -, hf⟩ := id hs
  refine (OnBus.wrFrame hf n k dcmd addr ls disp s (onBus_of_linesIdle hs)).mono (fun t ht => ?_) fun t ht => ?_
  · exact ⟨ht.clk _ rfl, ht.dio _ rfl, ht.framing.symm ▸ hf⟩
  · exact ⟨ht.clk, ht.dio, ht.framing.symm ▸ hf⟩

/-- Settles O44: the one operation of the sequencer that touches the lines sends whole frames, and resets and halts
leave the bus idle. -/
theorem sequencerLeavesTheBusIdle : Obligations.SequencerLeavesTheBusIdle := by
  intro s t hwired hidle hstep
  have hblocks : BlocksKept State.LinesIdle State.LinesIdle :=
    busCondition_linesIdle.blocksKept fun s hs => wrFrame_keeps_linesIdle _ _ _ _ _ _ s hs
  rcases step_cases s t hstep with ⟨-, hrun⟩ | ⟨q, rest, i, hissued, -, -⟩
  · exact runOp_sat _ s t hrun (busCondition_linesIdle.restart s hidle)
      (fun _ => busCondition_linesIdle.envPoint s hidle) fun _ => hblocks.phaseStep s.ph s hidle
  · rw [hwired] at hissued
    cases hissued

/-! ### The framing checker and the lines (30_encoding.md R96 (a), (f)) -/

/-- The level of `CLK` a checker's state says. -/
def clkOf : Tracker → Bool
  | .open1 => false
  | _ => true

/-- The level of `DIO` a checker's state says, where it says one. -/
def dioOf : Tracker → Option Bool
  | .idle => some true
  | .open0 => some false
  | _ => none

theorem linesTracked_iff {s : State} :
    s.LinesTracked ↔ ∃ t, OnBus (some .idle) (some t) (some (clkOf t)) (dioOf t) s := by
  have hunfold : ∀ t, s.framing = some t →
      (s.LinesTracked ↔ s.clk = clkOf t ∧ ∀ v, dioOf t = some v → s.dio = v) := by
    intro t ht
    cases t <;> simp [State.LinesTracked, ht, clkOf, dioOf]
  constructor
  · intro hs
    cases ht : s.framing with
    | none => simp [State.LinesTracked, ht] at hs
    | some t =>
      obtain ⟨hclk, hdio⟩ := (hunfold t ht).mp hs
      exact ⟨t, rfl, ht, fun v hv => hclk.trans (Option.some.inj hv), hdio⟩
  · rintro ⟨t, -, ht, hclk, hdio⟩
    exact (hunfold t ht).mpr ⟨hclk _ rfl, hdio⟩

theorem linesTracked_of_busReset {s : State} (hs : BusReset (some .idle) s) : s.LinesTracked := by
  obtain ⟨hframing, hclk, hdio⟩ := hs
  simp [State.LinesTracked, hframing, hclk, hdio]

theorem busCondition_linesTracked : BusCondition State.LinesTracked where
  of_view s t hs h := by
    obtain ⟨x, hx⟩ := linesTracked_iff.mp hs
    exact linesTracked_iff.mpr ⟨x, hx.of_view h⟩
  restart s hs := by
    obtain ⟨x, hx⟩ := linesTracked_iff.mp hs
    exact linesTracked_of_busReset hx.restart

/-- The levels a primitive leaves: `CLK`, and `DIO` where it is the same for every byte. -/
def levelsOf : Prim → Bool × Option Bool
  | .start => (true, some false)
  | .byte => (true, none)
  | .ack => (false, none)
  | .stop => (true, some true)

/-- They are those of the checker's next state. -/
theorem next_levels {t t' : Tracker} {p : Prim} (h : t.next p = some t') : levelsOf p = (clkOf t', dioOf t') := by
  cases t <;> cases p <;> cases h <;> rfl

/-- A stretch that is refused where the checker refuses the primitive `p`, and else leaves the levels of `p`. -/
theorem primitive_tracks {p : Prim} {o : Op}
    (hrefused : ∀ s : State, trackNext s.framing p = none → o s = .refused .framing)
    (hsent : ∀ f f' : Option Tracker, trackNext f p = some f' →
      Triple (BusReset (some .idle)) (OnBus (some .idle) f none none) o
        (OnBus (some .idle) f' (some (levelsOf p).1) (levelsOf p).2)) :
    Triple State.LinesTracked State.LinesTracked o State.LinesTracked := fun s hs => by
  obtain ⟨t, ht⟩ := linesTracked_iff.mp hs
  cases hnext : t.next p with
  | none =>
    rw [hrefused s (by rw [ht.framing, trackNext, hnext, Option.map_none])]
    trivial
  | some t' =>
    have hlevels := hsent (some t) (some t') (congrArg (Option.map some) hnext) s ht.forget
    rw [next_levels hnext] at hlevels
    exact hlevels.mono (fun u hu => linesTracked_iff.mpr ⟨t', hu⟩) fun u hu => linesTracked_of_busReset hu

theorem start_tracks : Triple State.LinesTracked State.LinesTracked start State.LinesTracked :=
  primitive_tracks (fun _ h => prog_track_of_none _ h) fun _ _ h => OnBus.start h

theorem stop_tracks : Triple State.LinesTracked State.LinesTracked stop State.LinesTracked :=
  primitive_tracks (fun _ h => prog_track_of_none _ h) fun _ _ h => OnBus.stop h

theorem waitAck_tracks : Triple State.LinesTracked State.LinesTracked waitAck State.LinesTracked :=
  primitive_tracks (fun _ h => prog_track_of_none _ h) fun _ _ h => OnBus.waitAck h

theorem wrByte_tracks (b : Byte) : Triple State.LinesTracked State.LinesTracked (wrByte b) State.LinesTracked :=
  primitive_tracks (fun _ h => prog_track_of_none _ h) fun _ _ h => OnBus.wrByte b h

/-- A checker that lets a composite run is in `IDLE`, hence the bus is idle. -/
theorem composite_tracks {o : Op}
    (hrefused : ∀ s : State, compositeOk s.framing = false → (o s).Sat State.LinesTracked State.LinesTracked)
    (hsent : Triple (BusReset (some .idle)) (OnBus (some .idle) (some .idle) (some true) (some true)) o
      (OnBus (some .idle) (some .idle) (some true) (some true))) :
    Triple State.LinesTracked State.LinesTracked o State.LinesTracked := fun s hs => by
  obtain ⟨t, ht⟩ := linesTracked_iff.mp hs
  cases hf : compositeOk s.framing with
  | false => exact hrefused s hf
  | true =>
    rw [ht.framing] at hf
    have hidle : t = .idle := by
      cases t with
      | idle => rfl
      | open0 | sent | open1 => cases hf
    subst hidle
    exact (hsent s ht).mono (fun u hu => linesTracked_iff.mpr ⟨.idle, hu⟩) fun u hu => linesTracked_of_busReset hu

theorem sendCommand_tracks (b : Byte) :
    Triple State.LinesTracked State.LinesTracked (sendCommand b) State.LinesTracked :=
  composite_tracks (fun s h => by rw [sendCommand_of_busy b h]; trivial) (OnBus.sendCommand rfl b)

theorem wrFrame_tracks (n : Nat) (k : Bool) (dcmd addr : Byte) (ls : Vector Digit 6) (disp : Byte) :
    Triple State.LinesTracked State.LinesTracked (wrFrame n k dcmd addr ls disp) State.LinesTracked :=
  composite_tracks (fun s h => by
      cases hn : frameLengthOk s.cfg n with
      | true => rw [wrFrame_of_busy k dcmd addr ls disp hn h]; trivial
      | false => rw [wrFrame_of_badLength n k dcmd addr ls disp s hn]; trivial)
    (OnBus.wrFrame rfl n k dcmd addr ls disp)

theorem enginesKept_linesTracked : EnginesKept State.LinesTracked where
  start := start_tracks
  stop := stop_tracks
  wrByte := wrByte_tracks
  waitAck := waitAck_tracks
  sendCommand := sendCommand_tracks
  wrFrame := wrFrame_tracks
  toDigitsOp := busCondition_linesTracked.toDigitsOp
  cue := busCondition_linesTracked.sessionKept.cue

theorem operationsKept_linesTracked : OperationsKept State.LinesTracked where
  blocks := busCondition_linesTracked.blocksKept fun s hs => wrFrame_tracks _ _ _ _ _ _ s hs
  engines := enginesKept_linesTracked
  restart := busCondition_linesTracked.restart
  accept _ _ _ hs := busCondition_linesTracked.of_view _ _ hs rfl

/-- Settles O45: each primitive the checker accepts takes the lines to the levels of the checker's next state; a
composite goes from `IDLE` to `IDLE`; nothing else touches the lines or the checker. -/
theorem linesFollowTheFramingChecker : Obligations.LinesFollowTheFramingChecker := fun _ _ hs hstep =>
  operationsKept_linesTracked.step hs hstep

end Sys2Proof.Proofs

namespace Sys2Proof.Proofs

open Sys2Proof Sys2Proof.Machine

/-! ### The sequencer's step without a reset -/

theorem step_of_wired {s : State} (h : s.issued = []) : step s = runOp (phaseStep s.ph) s := by
  rw [step, h]
  rfl

/-- A halted PTC lets the environment move and does nothing else. -/
theorem runOp_of_halted (o : Op) {s : State} (hh : s.halt = true) (h : s.NoReset) : runOp o s = .next s.envMove := by
  rw [runOp, if_neg (rst_not_due_of_none h.1), if_pos hh, envPoint_of_noReset s h, Flow.toOutcome_ok]

/-- A whole operation that runs answers as its lines end. -/
theorem runOp_answer {o : Op} {s t : State} {Q E : State → Prop} (hh : s.halt = false) (hr : s.rst ≠ some 0)
    (ho : (o s).Sat Q E) (h : runOp o s = .next t) : (o s = .ok t ∧ Q t) ∨ (o s = .ended t ∧ E t) := by
  rw [runOp_of_ready o s hh hr] at h
  cases hflow : o s with
  | ok u => rw [hflow] at h ho; cases h; exact .inl ⟨rfl, ho⟩
  | ended u => rw [hflow] at h ho; cases h; exact .inr ⟨rfl, ho⟩
  | refused r => rw [hflow] at h; cases h

/-! ### Before the first second (10_state.md R43) -/

/-- The condition reads only what is listed here. -/
theorem beforeFirstSecond_of_view {s t : State} (hs : BeforeFirstSecond s)
    (h : (t.issued, t.rst, t.env, t.sec, t.last) = (s.issued, s.rst, s.env, s.sec, s.last)) : BeforeFirstSecond t := by
  simp only [Prod.mk.injEq] at h
  obtain ⟨hissued, hrst, henv, hsec, hlast⟩ := h
  obtain ⟨wired, ⟨rst, env⟩, noSecTick, sec, last⟩ := hs
  refine ⟨hissued.trans wired, ⟨hrst.trans rst, henv ▸ env⟩, ?_, hsec.trans sec, hlast.trans last⟩
  rw [State.NoSecTick, henv]
  exact noSecTick

theorem beforeFirstSecond_envMove {s : State} (hs : BeforeFirstSecond s) : BeforeFirstSecond s.envMove where
  wired := s.envMove_issued.trans hs.wired
  noReset := hs.noReset.envMove
  noSecTick := hs.noSecTick.envMove
  sec := hs.noSecTick.envMove_sec.trans hs.sec
  last := s.envMove_last.trans hs.last

/-- From `s`, the first second is still to come in `t`, and the events in between drive neither `CLK` nor `DIO`. -/
structure Undrawn (s t : State) : Prop where
  before : BeforeFirstSecond t
  events : ∃ es, t.trace = s.trace ++ es ∧ ∀ e ∈ es, e.isClk = false ∧ e.isDio = false

namespace Undrawn

theorem silent {s t : State} (ht : BeforeFirstSecond t) (h : t.trace = s.trace) : Undrawn s t :=
  ⟨ht, [], by simpa using h, by simp⟩

theorem atTimerSample {s : State} (hs : BeforeFirstSecond s) : Undrawn s s.atTimerSample := by
  have hmoved : BeforeFirstSecond (State.envMove { s with run := !s.run }) :=
    beforeFirstSecond_envMove (beforeFirstSecond_of_view hs rfl)
  refine ⟨beforeFirstSecond_envMove (beforeFirstSecond_of_view hmoved rfl), [.tmrRun (!s.run)],
    atTimerSample_trace s, ?_⟩
  simp [Event.isClk, Event.isDio]

theorem ctrlEdge {s : State} (hs : BeforeFirstSecond s) : (ctrlEdge s).Sat (Undrawn s) (Undrawn s) := by
  obtain ⟨hsample, -⟩ := atTimerSample hs
  rw [ctrlEdge_of_noReset s hs.noReset]
  split
  · refine ⟨beforeFirstSecond_of_view hsample rfl, [.tmrRun (!s.run)], atTimerSample_trace s, ?_⟩
    simp [Event.isClk, Event.isDio]
  · have hmoved := beforeFirstSecond_envMove hsample
    refine ⟨⟨hmoved.wired, hmoved.noReset, hmoved.noSecTick, rfl, hmoved.last⟩, [.tmrRun (!s.run), .secClr], ?_, ?_⟩
    · simp [atTimerSample_trace]
    · simp [Event.isClk, Event.isDio]

theorem funcEdge {s : State} (hs : BeforeFirstSecond s) : (funcEdge s).Sat (Undrawn s) (Undrawn s) := by
  have hmoved := beforeFirstSecond_envMove hs
  rw [funcEdge_of_noReset s hs.noReset, rolled_eq]
  refine ⟨⟨hmoved.wired, hmoved.noReset, hmoved.noSecTick, rfl, hmoved.last⟩, [.secClr], rfl, ?_⟩
  simp [Event.isClk, Event.isDio]

/-- A poll samples, and where it fires runs an edge, whose events are `TMR_RUN` and `SEC_CLR`. -/
theorem dbPoll (u : Button) {s : State} (hs : BeforeFirstSecond s) : (dbPoll u s).Sat (Undrawn s) (Undrawn s) := by
  have hpolled : BeforeFirstSecond (s.atTickSample.setDb u (pollOf u s).1) :=
    beforeFirstSecond_of_view (beforeFirstSecond_envMove (beforeFirstSecond_envMove hs)) (by simp [State.atTickSample])
  have htrace : (s.atTickSample.setDb u (pollOf u s).1).trace = s.trace := by simp [State.atTickSample]
  have hfire : (fire u (s.atTickSample.setDb u (pollOf u s).1)).Sat (Undrawn s) (Undrawn s) := by
    have hlift : ∀ t, Undrawn (s.atTickSample.setDb u (pollOf u s).1) t → Undrawn s t := fun t ht =>
      ⟨ht.before, htrace ▸ ht.events⟩
    cases u
    · exact (ctrlEdge hpolled).mono hlift hlift
    · exact (funcEdge hpolled).mono hlift hlift
  cases hedge : (pollOf u s).2 with
  | false => rw [dbPoll_of_quiet u s hs.noReset hedge]; exact silent hpolled htrace
  | true => rw [dbPoll_of_edge u s hs.noReset hedge]; exact hfire

/-- A refresh samples `SEC = 0 = LAST` (44_refresh_scheduler.md R218). -/
theorem refresh {s : State} (hs : BeforeFirstSecond s) : (refresh s).Sat (Undrawn s) (Undrawn s) := by
  have hmoved := beforeFirstSecond_envMove hs
  rw [refresh_of_noReset s hs.noReset, if_pos (hmoved.sec.trans hs.last.symm)]
  exact silent hmoved s.envMove_trace

theorem phaseStep (p : Phase) {s : State} (hs : BeforeFirstSecond s) :
    (phaseStep p s).Sat (Undrawn s) (Undrawn s) := by
  have hbody : (phaseBody p s).Sat (Undrawn s) (Undrawn s) := by
    cases p
    · exact dbPoll .ctrl hs
    · exact dbPoll .func hs
    · exact refresh hs
  exact hbody.andThen fun t ht => ⟨beforeFirstSecond_of_view ht.before rfl, ht.events⟩

end Undrawn

/-- Settles O53: the condition holds at reset, and each phase and each halted step keeps it without driving a line. -/
theorem nothingIsDrawnAfterReset : Obligations.NothingIsDrawnAfterReset := by
  refine ⟨fun c ms hms => ?reset, fun s t hs hstep => ?step⟩
  case reset =>
    have hmoves : ∀ b ∈ ms, ∀ m ∈ b, m.isRst = false ∧ m.isSecTick = false := fun b hb m hm =>
      hms m (List.mem_flatten_of_mem hb hm)
    exact ⟨rfl, ⟨rfl, fun b hb m hm => (hmoves b hb m hm).1⟩, fun b hb m hm => (hmoves b hb m hm).2, rfl, rfl⟩
  case step =>
    have hundrawn : Undrawn s t := by
      rw [step_of_wired hs.wired] at hstep
      cases hh : s.halt with
      | true =>
        rw [runOp_of_halted _ hh hs.noReset] at hstep
        cases hstep
        exact Undrawn.silent (beforeFirstSecond_envMove hs) s.envMove_trace
      | false =>
        have hready := rst_not_due_of_none hs.noReset.1
        rcases runOp_answer hh hready (Undrawn.phaseStep s.ph hs) hstep with ⟨-, ht⟩ | ⟨-, ht⟩
        · exact ht
        · exact ht
    exact ⟨hundrawn.before, hundrawn.events⟩

end Sys2Proof.Proofs

namespace Sys2Proof.Proofs

open Sys2Proof Sys2Proof.Machine

/-! ### What the operation of a phase leaves alone where no reset comes (10_state.md R30) -/

/-- No reset will come, `PH` is `p`, `HALT` is `h` and the issued words are `is`. -/
structure Undisturbed (p : Phase) (is : List Issue) (h : Bool) (s : State) : Prop where
  noReset : s.NoReset
  ph : s.ph = p
  issued : s.issued = is
  halt : s.halt = h

/-- No condition on the values the counters take. -/
def anyValues : Values := ⟨fun _ => True, fun _ => True, fun _ => True⟩

namespace Undisturbed

variable {p : Phase} {is : List Issue} {h : Bool} {s t : State}

theorem of_view (hs : Undisturbed p is h s)
    (hview : (t.rst, t.env, t.ph, t.issued, t.halt) = (s.rst, s.env, s.ph, s.issued, s.halt)) :
    Undisturbed p is h t := by
  simp only [Prod.mk.injEq] at hview
  obtain ⟨hrst, henv, hph, hissued, hhalt⟩ := hview
  obtain ⟨⟨rst, env⟩, ph, issued, halt⟩ := hs
  exact ⟨⟨hrst.trans rst, henv ▸ env⟩, hph.trans ph, hissued.trans issued, hhalt.trans halt⟩

theorem envMove (hs : Undisturbed p is h s) : Undisturbed p is h s.envMove :=
  ⟨hs.noReset.envMove, s.envMove_ph.trans hs.ph, s.envMove_issued.trans hs.issued, s.envMove_halt.trans hs.halt⟩

theorem raiseHalt (hs : Undisturbed p is h s) (c : HaltCause) :
    Undisturbed p is true { s with halt := true, hcause := c } :=
  ⟨hs.noReset, hs.ph, hs.issued, rfl⟩

/-- Every line keeps this; only a halt ends an operation. -/
theorem kept : Kept anyValues (Undisturbed p is false) (Undisturbed p is true) where
  line s hs := by rw [line_of_rst_none s hs.noReset.1]; exact hs
  envPoint s hs := by rw [envPoint_of_noReset s hs.noReset]; exact hs.envMove
  log _ _ hs := hs.of_view rfl
  clk _ _ hs := hs.of_view rfl
  dio _ _ hs := hs.of_view rfl
  idx _ _ hs := hs.of_view rfl
  shr _ _ hs := hs.of_view rfl
  bitc _ _ hs := hs.of_view rfl
  framing _ _ hs := hs.of_view rfl
  buz _ _ hs := hs.of_view rfl
  secClear _ hs := hs.of_view rfl
  tmrRun _ _ hs := hs.of_view rfl
  run _ _ hs := hs.of_view rfl
  mode _ _ hs := hs.of_view rfl
  cyc _ _ hs _ := hs.of_view rfl
  tgt _ _ hs := hs.of_view rfl
  dig _ _ hs _ := hs.of_view rfl
  blink _ _ hs := hs.of_view rfl
  last _ _ hs _ := hs.of_view rfl
  qDig _ _ hs := hs.of_view rfl
  observe _ _ _ _ hs _ := hs.of_view (by simp)
  commit _ _ _ hs := hs.of_view (by simp)
  nextCyc _ _ := trivial
  zeroCyc := trivial
  zeroLast := trivial
  sampleLast _ _ := trivial
  sampleChg _ _ := trivial
  timerHalt _ c hs _ _ := hs.raiseHalt c
  digitHalt _ _ hs _ _ := hs.raiseHalt _

/-- The operation of a phase runs to its end with `HALT` still 0, or ends with `HALT` at 1. -/
theorem phaseBody (q : Phase) (hs : Undisturbed p is false s) :
    (phaseBody q s).Sat (Undisturbed p is false) (Undisturbed p is true) := kept.phaseBody q s hs

end Undisturbed

theorem exec_phase_instr (p : Phase) (s : State) : exec p.instr s = runOp (phaseBody p) s := by cases p <;> rfl

/-- Settles O7: the phase's operation ends with its lines run, and then `PH` steps, or with a halt. -/
theorem sequencerRunsThePhaseAndAdvances : Obligations.SequencerRunsThePhaseAndAdvances := by
  intro s t hwired hnoReset hh hexec
  have hready := rst_not_due_of_none hnoReset.1
  have hstart : Undisturbed s.ph [] false s := ⟨hnoReset, rfl, hwired, hh⟩
  rw [exec_phase_instr] at hexec
  rw [step_of_wired hwired]
  rcases runOp_answer hh hready (hstart.phaseBody s.ph) hexec with ⟨hbody, ht⟩ | ⟨hbody, ht⟩
  · refine ⟨ht.ph, ?_⟩
    rw [runOp_of_ok hh hready (phaseStep_of_ok s.ph s t hbody), ht.halt]
    cases s.ph <;> rfl
  · refine ⟨ht.ph, ?_⟩
    rw [runOp_of_ended hh hready (phaseStep_of_ended s.ph s t hbody), ht.halt]
    rfl

/-! ### `ITER` from what its three phases answer (44_refresh_scheduler.md R221) -/

theorem exec_iter (s : State) : exec .iter s = runOp iter s := rfl

theorem iter_eq (s : State) :
    iter s =
      (phaseStep .ctrlPoll { s with ph := .ctrlPoll }).andThen (prog [phaseStep .funcPoll, phaseStep .refresh]) :=
  rfl

theorem iter_of_first_ended {s t : State} (h : dbPoll .ctrl { s with ph := .ctrlPoll } = .ended t) :
    iter s = .ended t := by
  rw [iter_eq, phaseStep_of_ended .ctrlPoll _ t h, Flow.andThen_ended]

/-- After two completed polls the iteration is its refresh. -/
theorem iter_of_polls {s t u : State} (hctrl : dbPoll .ctrl { s with ph := .ctrlPoll } = .ok t)
    (hfunc : dbPoll .func { t with ph := .funcPoll } = .ok u) :
    iter s = phaseStep .refresh { u with ph := .refresh } := by
  rw [iter_eq, phaseStep_of_ok .ctrlPoll _ t hctrl, Flow.andThen_ok, prog_cons]
  change (phaseStep .funcPoll { t with ph := .funcPoll }).andThen _ = _
  rw [phaseStep_of_ok .funcPoll _ u hfunc, Flow.andThen_ok, prog_singleton]
  rfl

theorem iter_of_ok {s t u v : State} (hctrl : dbPoll .ctrl { s with ph := .ctrlPoll } = .ok t)
    (hfunc : dbPoll .func { t with ph := .funcPoll } = .ok u) (hrefresh : refresh { u with ph := .refresh } = .ok v) :
    iter s = .ok { v with ph := .ctrlPoll } :=
  (iter_of_polls hctrl hfunc).trans (phaseStep_of_ok .refresh _ v hrefresh)

theorem iter_of_last_ended {s t u v : State} (hctrl : dbPoll .ctrl { s with ph := .ctrlPoll } = .ok t)
    (hfunc : dbPoll .func { t with ph := .funcPoll } = .ok u)
    (hrefresh : refresh { u with ph := .refresh } = .ended v) : iter s = .ended v :=
  (iter_of_polls hctrl hfunc).trans (phaseStep_of_ended .refresh _ v hrefresh)

/-! ### What the three phases can answer where no reset comes -/

/-- A state whose configuration and checker are those of `s`. -/
def SameBus (s t : State) : Prop := t.cfg = s.cfg ∧ t.framing = s.framing

theorem ctrlEdge_answers {s : State} (h : s.NoReset) :
    ∃ t, SameBus s t ∧ (ctrlEdge s = .ok t ∨ ctrlEdge s = .ended t) := by
  rw [ctrlEdge_of_noReset s h]
  split
  · exact ⟨_, by simp [SameBus, State.atTimerSample], .inr rfl⟩
  · exact ⟨_, by simp [SameBus, State.atTimerSample], .inl rfl⟩

theorem funcEdge_answers {s : State} (h : s.NoReset) : ∃ t, SameBus s t ∧ funcEdge s = .ok t :=
  ⟨s.rolled, by simp [SameBus, rolled_eq], funcEdge_of_noReset s h⟩

theorem sameBus_polled (u : Button) (s : State) (d : Debounce) : SameBus s (s.atTickSample.setDb u d) := by
  simp [SameBus, State.atTickSample]

theorem noReset_polled {s : State} (h : s.NoReset) (u : Button) (d : Debounce) :
    (s.atTickSample.setDb u d).NoReset := by
  obtain ⟨hrst, henv⟩ := h.envMove.envMove
  exact ⟨(State.setDb_rst _ _ _).trans hrst, (State.setDb_env _ _ _).symm ▸ henv⟩

theorem SameBus.trans {s t u : State} (h : SameBus s t) (h' : SameBus t u) : SameBus s u :=
  ⟨h'.1.trans h.1, h'.2.trans h.2⟩

/-- The control poll completes, or halts in its edge. -/
theorem dbPoll_ctrl_answers {s : State} (h : s.NoReset) :
    ∃ t, SameBus s t ∧ (dbPoll .ctrl s = .ok t ∨ dbPoll .ctrl s = .ended t) := by
  cases hedge : (pollOf .ctrl s).2 with
  | false => exact ⟨_, sameBus_polled _ _ _, .inl (dbPoll_of_quiet .ctrl s h hedge)⟩
  | true =>
    obtain ⟨t, hbus, hrun⟩ := ctrlEdge_answers (noReset_polled h .ctrl (pollOf .ctrl s).1)
    rw [dbPoll_of_edge .ctrl s h hedge]
    exact ⟨t, (sameBus_polled _ _ _).trans hbus, hrun⟩

/-- The function poll always completes. -/
theorem dbPoll_func_answers {s : State} (h : s.NoReset) : ∃ t, SameBus s t ∧ dbPoll .func s = .ok t := by
  cases hedge : (pollOf .func s).2 with
  | false => exact ⟨_, sameBus_polled _ _ _, dbPoll_of_quiet .func s h hedge⟩
  | true =>
    obtain ⟨t, hbus, hrun⟩ := funcEdge_answers (noReset_polled h .func (pollOf .func s).1)
    rw [dbPoll_of_edge .func s h hedge]
    exact ⟨t, (sameBus_polled _ _ _).trans hbus, hrun⟩

/-- A refresh whose frame fits and meets an idle checker completes, or halts at the digit encoder. -/
theorem refresh_answers {s : State} (h : s.NoReset) (hf : compositeOk s.framing = true) (hn : FrameFits s.cfg) :
    ∃ t, refresh s = .ok t ∨ refresh s = .ended t := by
  by_cases hlast : s.envMove.sec = s.last
  · exact ⟨_, .inl ((refresh_of_noReset s h).trans (if_pos hlast))⟩
  · by_cases htgt : s.envMove.sec = s.tgt
    · exact ⟨_, .inl (refresh_of_rollover s h hlast htgt hf hn)⟩
    · rw [refresh_of_changed h hlast htgt]
      by_cases hlt : s.envMove.sec < 6000
      · exact ⟨_, .inl (render_of_rst_none _ _ h.envMove.1 hlt (by rwa [State.envMove_framing])
          (by rwa [State.envMove_cfg]))⟩
      · exact ⟨_, .inr (render_of_large _ _ (Nat.not_lt.mp hlt))⟩

namespace Undisturbed

variable {p : Phase} {is : List Issue} {s t : State}

/-- The sequencer, or `ITER`, goes on to the next phase. -/
theorem atPhase (hs : Undisturbed p is false s) (q : Phase) : Undisturbed q is false { s with ph := q } :=
  ⟨hs.noReset, rfl, hs.issued, hs.halt⟩

theorem ready (hs : Undisturbed p is false s) : s.rst ≠ some 0 := rst_not_due_of_none hs.noReset.1

theorem of_ok (hs : Undisturbed p is false s) {q : Phase} (h : Machine.phaseBody q s = .ok t) :
    Undisturbed p is false t := by
  have hbody := hs.phaseBody q
  rwa [h] at hbody

theorem of_ended (hs : Undisturbed p is false s) {q : Phase} (h : Machine.phaseBody q s = .ended t) :
    Undisturbed p is true t := by
  have hbody := hs.phaseBody q
  rwa [h] at hbody

end Undisturbed

/-- Settles O36: the phases in order, each answering by its lines or by a halt, which ends the iteration. -/
theorem iterationRunsThreePhasesInOrder : Obligations.IterationRunsThreePhasesInOrder := by
  refine ⟨by decide, fun s hh hnoReset hfits hframing => ?_⟩
  have hready := rst_not_due_of_none hnoReset.1
  have h0 : Undisturbed .ctrlPoll s.issued false { s with ph := .ctrlPoll } := ⟨hnoReset, rfl, rfl, hh⟩
  obtain ⟨t1, ⟨hcfg1, hframing1⟩, hctrl | hctrl⟩ := dbPoll_ctrl_answers h0.noReset
  case inr =>
    have h1 := h0.of_ended (q := .ctrlPoll) hctrl
    refine ⟨t1, runOp_of_ended h0.halt h0.ready hctrl, fun _ => ⟨?_, h1.ph⟩, fun hrunning => ?_⟩
    · exact runOp_of_ended hh hready (iter_of_first_ended hctrl)
    · simp [h1.halt] at hrunning
  case inl =>
    have h1 := h0.of_ok (q := .ctrlPoll) hctrl
    refine ⟨t1, runOp_of_ok h0.halt h0.ready hctrl, fun hhalted => ?_, fun _ => ?_⟩
    · simp [h1.halt] at hhalted
    have h1' := h1.atPhase .funcPoll
    obtain ⟨t2, ⟨hcfg2, hframing2⟩, hfunc⟩ := dbPoll_func_answers h1'.noReset
    have h2 := h1'.of_ok (q := .funcPoll) hfunc
    have h2' := h2.atPhase .refresh
    have hcfg : t2.cfg = s.cfg := hcfg2.trans hcfg1
    have hidle : compositeOk t2.framing = true := by
      rw [hframing2.trans hframing1]
      exact compositeOk_iff.mpr hframing
    obtain ⟨t3, hrefresh | hrefresh⟩ := refresh_answers h2'.noReset hidle (hcfg ▸ hfits)
    case inl =>
      have h3 := h2'.of_ok (q := .refresh) hrefresh
      refine ⟨t2, t3, runOp_of_ok h1'.halt h1'.ready hfunc, h2.halt, runOp_of_ok h2'.halt h2'.ready hrefresh,
        fun hhalted => ?_, fun _ => ?_⟩
      · simp [h3.halt] at hhalted
      · exact runOp_of_ok hh hready (iter_of_ok hctrl hfunc hrefresh)
    case inr =>
      have h3 := h2'.of_ended (q := .refresh) hrefresh
      refine ⟨t2, t3, runOp_of_ok h1'.halt h1'.ready hfunc, h2.halt, runOp_of_ended h2'.halt h2'.ready hrefresh,
        fun _ => ⟨?_, h3.ph⟩, fun hrunning => ?_⟩
      · exact runOp_of_ended hh hready (iter_of_last_ended hctrl hfunc hrefresh)
      · simp [h3.halt] at hrunning

/-! ### Three steps of the sequencer (44_refresh_scheduler.md R222) -/

/-- A step of the sequencer completes its phase and moves `PH` on, or halts. -/
theorem Undisturbed.step {p : Phase} {s t : State} (hs : Undisturbed p [] false s) (hstep : step s = .next t) :
    (∃ u, Machine.phaseBody p s = .ok u ∧ t = { u with ph := p.succ } ∧ Undisturbed p.succ [] false t) ∨
      Undisturbed p [] true t := by
  have hbody := hs.phaseBody p
  rw [step_of_wired hs.issued, hs.ph] at hstep
  cases hflow : Machine.phaseBody p s with
  | ok u =>
    rw [runOp_of_ok hs.halt hs.ready (phaseStep_of_ok p s u hflow)] at hstep
    cases hstep
    exact .inl ⟨u, rfl, rfl, (hs.of_ok hflow).atPhase p.succ⟩
  | ended u =>
    rw [runOp_of_ended hs.halt hs.ready (phaseStep_of_ended p s u hflow)] at hstep
    cases hstep
    exact .inr (hs.of_ended hflow)
  | refused r =>
    have hrefused : phaseStep p s = .refused r := by rw [phaseStep, prog_cons, hflow, Flow.andThen_refused]
    rw [runOp_of_refused hs.halt hs.ready hrefused] at hstep
    cases hstep

/-- Without a reset the sequencer stays halted (60_exceptions.md R246). -/
theorem Undisturbed.step_halted {p : Phase} {s t : State} (hs : Undisturbed p [] true s)
    (hstep : Machine.step s = .next t) : Undisturbed p [] true t := by
  rw [step_of_wired hs.issued, runOp_of_halted _ hs.halt hs.noReset] at hstep
  cases hstep
  exact hs.envMove

/-- Settles O38: a halt in one of the first two steps would still stand after the third, so all three phases
completed. -/
theorem iterationIsThreeSequencerSteps : Obligations.IterationIsThreeSequencerSteps := by
  intro s t1 t2 t3 hwired hph hh hnoReset hstep1 hstep2 hstep3 hrunning
  have h0 : Undisturbed .ctrlPoll [] false s := ⟨hnoReset, hph, hwired, hh⟩
  have hnotHalted : ∀ {p}, ¬ Undisturbed p [] true t3 := fun h => by simp [h.halt] at hrunning
  obtain ⟨u1, hctrl, rfl, h1⟩ | h1 := h0.step hstep1
  case inr => exact absurd ((h1.step_halted hstep2).step_halted hstep3) hnotHalted
  obtain ⟨u2, hfunc, rfl, h2⟩ | h2 := h1.step hstep2
  case inr => exact absurd (h2.step_halted hstep3) hnotHalted
  obtain ⟨u3, hrefresh, rfl, -⟩ | h3 := h2.step hstep3
  case inr => exact absurd h3 hnotHalted
  have hself : { s with ph := .ctrlPoll } = s := by rw [← hph]
  exact runOp_of_ok hh h0.ready (iter_of_ok (hself.symm ▸ hctrl) hfunc hrefresh)

end Sys2Proof.Proofs

namespace Sys2Proof.Proofs

open Sys2Proof Sys2Proof.Machine

/-! ### An iteration whose polls fire nothing (44_refresh_scheduler.md R221) -/

/-- What polls that fire nothing and the sequencer write: the debounce registers and `PH`. -/
def withPolls (d : Button → Debounce) (p : Phase) (s : State) : State :=
  { s with dbCtrl := d .ctrl, dbFunc := d .func, ph := p }

theorem withPolls_envMove (d : Button → Debounce) (p : Phase) (s : State) :
    (withPolls d p s).envMove = withPolls d p s.envMove := by
  refine envMove_comm (f := withPolls d p) (fun s m => ?_) (fun _ => rfl) (fun _ _ => rfl) s
  rcases m with _ | _ | ⟨u, v⟩ | v | k
  case secTick =>
    rw [State.move, State.move, apply_ite (withPolls d p)]
    rfl
  case btn => cases u <;> rfl
  all_goals rfl

theorem withPolls_atTickSample (d : Button → Debounce) (p : Phase) (s : State) :
    (withPolls d p s).atTickSample = withPolls d p s.atTickSample := by
  rw [State.atTickSample, withPolls_envMove, withPolls_envMove, State.atTickSample]

theorem withPolls_noReset {s : State} (h : s.NoReset) (d : Button → Debounce) (p : Phase) :
    (withPolls d p s).NoReset := h

theorem setDb_withPolls (d : Button → Debounce) (p : Phase) (s : State) (u : Button) (e : Debounce) :
    (withPolls d p s).setDb u e = withPolls (Function.update d u e) p s := by cases u <;> rfl

/-- What the debounce registers of `u` are left with by a poll from registers `d`, on the samples taken from `s`. -/
def pollFrom (u : Button) (d : Debounce) (s : State) : Debounce × Bool :=
  d.poll s.cfg (s.envMove.btn u) s.atTickSample.tick

theorem pollOf_withPolls (u : Button) (d : Button → Debounce) (p : Phase) (s : State) :
    pollOf u (withPolls d p s) = pollFrom u (d u) s := by
  rw [pollOf, withPolls_envMove, withPolls_atTickSample]
  cases u <;> rfl

theorem dbPoll_withPolls_of_quiet {u : Button} {d : Button → Debounce} (p : Phase) {s : State} (h : s.NoReset)
    (hquiet : (pollFrom u (d u) s).2 = false) :
    dbPoll u (withPolls d p s) = .ok (withPolls (Function.update d u (pollFrom u (d u) s).1) p s.atTickSample) := by
  rw [← pollOf_withPolls u d p s] at hquiet
  have hrun : dbPoll u (withPolls d p s) =
      .ok ((withPolls d p s).atTickSample.setDb u (pollOf u (withPolls d p s)).1) :=
    dbPoll_of_quiet u _ (withPolls_noReset h d p) hquiet
  rw [hrun, withPolls_atTickSample, pollOf_withPolls, setDb_withPolls]

/-- The registers after the two polls of an iteration, the second on later samples. -/
def afterPolls (s : State) : Button → Debounce
  | .ctrl => (pollFrom .ctrl s.dbCtrl s).1
  | .func => (pollFrom .func s.dbFunc s.atTickSample).1

/-- After two polls that fire nothing the iteration is its refresh. -/
theorem iter_of_quiet {s : State} (h : s.NoReset) (hctrl : (pollFrom .ctrl s.dbCtrl s).2 = false)
    (hfunc : (pollFrom .func s.dbFunc s.atTickSample).2 = false) :
    iter s = phaseStep .refresh (withPolls (afterPolls s) .refresh s.atTickSample.atTickSample) := by
  have hmoved : s.atTickSample.NoReset := h.envMove.envMove
  have hfirst : dbPoll .ctrl { s with ph := .ctrlPoll } =
      .ok (withPolls (Function.update s.db .ctrl (afterPolls s .ctrl)) .ctrlPoll s.atTickSample) :=
    dbPoll_withPolls_of_quiet (d := s.db) .ctrlPoll h hctrl
  have hsecond : dbPoll .func (withPolls (Function.update s.db .ctrl (afterPolls s .ctrl)) .funcPoll s.atTickSample) =
      .ok (withPolls (Function.update (Function.update s.db .ctrl (afterPolls s .ctrl)) .func (afterPolls s .func))
        .funcPoll s.atTickSample.atTickSample) :=
    dbPoll_withPolls_of_quiet .funcPoll hmoved hfunc
  have hboth : Function.update (Function.update s.db .ctrl (afterPolls s .ctrl)) .func (afterPolls s .func) =
      afterPolls s := by
    funext u
    cases u <;> rfl
  rw [hboth] at hsecond
  exact iter_of_polls hfirst hsecond

/-- An iteration in which nothing fires and `SEC` is as last drawn: only the environment and the debounce registers
move. -/
theorem exec_iter_of_quiet {s : State} (hh : s.halt = false) (h : s.NoReset)
    (hctrl : (pollFrom .ctrl s.dbCtrl s).2 = false) (hfunc : (pollFrom .func s.dbFunc s.atTickSample).2 = false)
    (hsec : s.atTickSample.atTickSample.envMove.sec = s.last) :
    exec .iter s = .next (withPolls (afterPolls s) .ctrlPoll s.atTickSample.atTickSample.envMove) := by
  have hmoved : (withPolls (afterPolls s) .refresh s.atTickSample.atTickSample).NoReset :=
    withPolls_noReset h.envMove.envMove.envMove.envMove _ _
  have hlast : s.atTickSample.atTickSample.last = s.last := by simp [State.atTickSample]
  have hrefresh := refresh_of_noReset _ hmoved
  rw [withPolls_envMove] at hrefresh
  have hunchanged := hrefresh.trans (if_pos (hsec.trans hlast.symm))
  exact runOp_of_ok hh (rst_not_due_of_none h.1)
    ((iter_of_quiet h hctrl hfunc).trans (phaseStep_of_ok .refresh _ _ hunchanged))

/-- A poll that fires nothing commits nothing, or the level that is not pressed. -/
theorem poll_stb_of_quiet {c : Config} {d : Debounce} {r : Bool} {t : Nat} (hquiet : (d.poll c r t).2 = false) :
    (d.poll c r t).1.stb = d.stb ∨ (d.poll c r t).1.stb = !c.active := by
  have hnot : ¬ (c.dbThreshold < subMod c.wTick t (changeTick d r t) ∧ r ≠ d.stb ∧ r = c.active) :=
    fun h => by simp [poll_fires_iff.mpr h] at hquiet
  rw [poll_registers]
  by_cases hwindow : c.dbThreshold < subMod c.wTick t (changeTick d r t)
  case neg => exact .inl (if_neg hwindow)
  case pos =>
    rw [if_pos hwindow]
    by_cases hsame : r = d.stb
    · exact .inl hsame
    · exact .inr (Bool.eq_not_of_ne fun hpressed => hnot ⟨hwindow, hsame, hpressed⟩)

/-- Settles O55: both polls follow the transition rule without firing, and the refresh returns at once. -/
theorem quietIterationEmitsNothing : Obligations.QuietIterationEmitsNothing := by
  intro s hh h hph s2 s4 p0 p1 hctrl hfunc hsec
  have hp0 : pollFrom .ctrl s.dbCtrl s = p0 := rfl
  have hp1 : pollFrom .func s.dbFunc s.atTickSample = p1 := by
    simp [pollFrom, p1, s4, s2, State.atTickSample, State.btn]
  have hiter := exec_iter_of_quiet hh h hctrl (hp1.symm ▸ hfunc) hsec
  have hph4 : s4.envMove.ph = .ctrlPoll := by simp [s4, s2, hph]
  refine ⟨?_, by simp [s4, s2], poll_stb_of_quiet hctrl, poll_stb_of_quiet hfunc⟩
  rw [hiter, withPolls, afterPolls, afterPolls, hp0, hp1, ← hph4]
  rfl

/-! ### An iteration in which nothing moves outside (95_test_vectors.md V58) -/

theorem atTickSample_of_env_nil {s : State} (h : s.env = []) : s.atTickSample = s := by
  rw [State.atTickSample, s.envMove_of_env_nil h, s.envMove_of_env_nil h]

/-- A poll of debounce registers at rest, on a sample at the resting level. -/
theorem pollFrom_of_rest {u : Button} {d : Debounce} {s : State} (hraw : d.raw = s.envMove.btn u)
    (hstb : d.stb = s.envMove.btn u) : pollFrom u d s = (d, false) := by
  obtain ⟨raw, stb, chg⟩ := d
  obtain rfl : raw = s.envMove.btn u := hraw
  obtain rfl : stb = s.envMove.btn u := hstb
  exact poll_rest_same _ _ _ _

/-- Settles O37: both instances are at rest at the level sampled, and the sample of `SEC` is `LAST`. -/
theorem idleIterationChangesNothing : Obligations.IdleIterationChangesNothing := by
  intro s hh hr henv hraw0 hstb0 hraw1 hstb1 hsec
  have hnoReset : s.NoReset := ⟨hr, by simp [henv]⟩
  have hstill : s.envMove = s := s.envMove_of_env_nil henv
  have hsampled : s.atTickSample = s := atTickSample_of_env_nil henv
  have hp0 : pollFrom .ctrl s.dbCtrl s = (s.dbCtrl, false) := pollFrom_of_rest (by rwa [hstill]) (by rwa [hstill])
  have hp1 : pollFrom .func s.dbFunc s = (s.dbFunc, false) := pollFrom_of_rest (by rwa [hstill]) (by rwa [hstill])
  have hiter := exec_iter_of_quiet hh hnoReset (by rw [hp0]) (by rw [hsampled, hp1])
    (by rw [hsampled, hsampled, hstill]; exact hsec)
  rw [hiter, withPolls, afterPolls, afterPolls, hsampled, hsampled, hstill, hp0, hp1]

end Sys2Proof.Proofs

namespace Sys2Proof.Proofs

open Sys2Proof Sys2Proof.Machine

/-! ### Both buttons in one iteration, nothing moving outside (60_exceptions.md R249) -/

/-- The pin of `u` is pressed, and its debouncer has seen the press for longer than its window without committing it. -/
def PressReady (u : Button) (s : State) : Prop :=
  s.btn u = s.cfg.active ∧ (s.db u).raw = s.cfg.active ∧ (s.db u).stb = !s.cfg.active ∧
    s.cfg.dbThreshold < subMod s.cfg.wTick s.tick (s.db u).chg

theorem noReset_of_env_nil {s : State} (hr : s.rst = none) (henv : s.env = []) : s.NoReset := ⟨hr, by simp [henv]⟩

/-- The poll of a press that is ready commits it and runs its action. -/
theorem dbPoll_of_pressReady {u : Button} {s : State} (hr : s.rst = none) (henv : s.env = []) (h : PressReady u s) :
    ∃ d : Debounce, d.stb = s.cfg.active ∧ dbPoll u s = fire u (s.setDb u d) := by
  obtain ⟨hbtn, hraw, hstb, hwindow⟩ := h
  have hstill : s.envMove = s := s.envMove_of_env_nil henv
  have hsampled : s.atTickSample = s := atTickSample_of_env_nil henv
  have hchange : changeTick (s.db u) (s.envMove.btn u) s.atTickSample.tick = (s.db u).chg :=
    changeTick_of_eq _ (by rw [hstill, hbtn, hraw])
  have helapsed : s.cfg.dbThreshold < subMod s.cfg.wTick s.atTickSample.tick
      (changeTick (s.db u) (s.envMove.btn u) s.atTickSample.tick) := by rwa [hchange, hsampled]
  have hfires : (pollOf u s).2 = true :=
    poll_fires_iff.mpr ⟨helapsed, by simp [hstill, hbtn, hstb], by rw [hstill, hbtn]⟩
  have hregisters : (pollOf u s).1.stb = s.cfg.active := by
    rw [pollOf, poll_registers_of_elapsed helapsed, hstill, hbtn]
  have hrun : dbPoll u s = fire u (s.atTickSample.setDb u (pollOf u s).1) :=
    dbPoll_of_edge u s (noReset_of_env_nil hr henv) hfires
  exact ⟨(pollOf u s).1, hregisters, by rw [hrun, hsampled]⟩

/-- What `CTRLEDGE` leaves where nothing moves outside and the timer is sound. -/
def sessionReset (s : State) : State :=
  { s with
    run := !s.run
    tmrRun := !s.run
    sec := 0
    mode := .focus
    tgt := s.cfg.tFocus
    cyc := 0
    trace := s.trace ++ [.tmrRun (!s.run), .secClr] }

theorem ctrlEdge_of_still {s : State} (hr : s.rst = none) (henv : s.env = []) (hf : s.tmrFail = false) :
    ctrlEdge s = .ok (sessionReset s) := by
  have hsample : s.atTimerSample =
      { s with run := !s.run, tmrRun := !s.run, trace := s.trace ++ [.tmrRun (!s.run)] } := by
    simp [State.atTimerSample, State.envMove_of_env_nil, State.log, henv]
  rw [ctrlEdge_of_noReset s (noReset_of_env_nil hr henv), hsample, if_neg (by simp [hf])]
  simp [State.envMove_of_env_nil, henv, State.log, sessionReset]

/-- What `FUNCEDGE` leaves where nothing moves outside. -/
def rolledStill (s : State) : State :=
  { s with
    mode := (nextMode s.cfg s.mode s.cyc).mode
    cyc := (nextMode s.cfg s.mode s.cyc).cyc
    sec := 0
    tgt := dur s.cfg (nextMode s.cfg s.mode s.cyc).mode
    trace := s.trace ++ [.secClr] }

theorem rolled_of_env_nil {s : State} (henv : s.env = []) : s.rolled = rolledStill s := by
  rw [rolled_eq, s.envMove_of_env_nil henv, rolledStill]

theorem funcEdge_of_still {s : State} (hr : s.rst = none) (henv : s.env = []) : funcEdge s = .ok (rolledStill s) := by
  rw [funcEdge_of_noReset s (noReset_of_env_nil hr henv), rolled_of_env_nil henv]

/-- A refresh at `SEC = 0` draws 00:00 where that is not drawn yet. -/
theorem refresh_of_sec_zero {s : State} (hr : s.rst = none) (henv : s.env = []) (hsec : s.sec = 0) (htgt : s.tgt ≠ 0)
    (hf : compositeOk s.framing = true) (hn : FrameFits s.cfg) :
    ∃ t, refresh s = .ok t ∧ t.last = 0 ∧ (t = s ∨ t = s.rendered 0) := by
  have h := noReset_of_env_nil hr henv
  have hstill : s.envMove = s := s.envMove_of_env_nil henv
  by_cases hlast : s.last = 0
  · refine ⟨s, ?_, hlast, .inl rfl⟩
    rw [refresh_of_noReset s h, hstill, if_pos (hsec.trans hlast.symm)]
  · refine ⟨s.rendered 0, ?_, rfl, .inr rfl⟩
    rw [refresh_of_changed h (by rw [hstill, hsec]; exact Ne.symm hlast) (by rw [hstill, hsec]; exact Ne.symm htgt),
      hstill, hsec, render_of_rst_none 0 s hr (by decide) hf hn]

/-- The first rollover of a session: the Focus is left with one cycle counted. -/
theorem nextMode_fresh_focus {c : Config} (hc : c.Valid) (hvar : c.cycVariant = .atFocusExit) :
    nextMode c .focus 0 = ⟨.shortBreak, 1, 1⟩ := by
  rw [nextMode_atFocusExit hvar, nextAtFocusExit, addMod_one_of_valid hc hc.limit.1]

/-- Settles O39: the control poll commits and resets the session, the function poll then rolls over from that fresh
Focus, and the refresh draws 00:00 unless it stands there. -/
theorem controlButtonComesBeforeFunctionButton : Obligations.ControlButtonComesBeforeFunctionButton := by
  intro s hvalid hvar hh hr henv hsound hpress hfits hframing
  have hf : compositeOk s.framing = true := compositeOk_iff.mpr hframing
  have hnext : nextMode s.cfg .focus 0 = ⟨.shortBreak, 1, 1⟩ := nextMode_fresh_focus hvalid hvar
  obtain ⟨d0, hd0, hedge0⟩ := dbPoll_of_pressReady (u := .ctrl) (s := { s with ph := .ctrlPoll }) hr henv (hpress .ctrl)
  let t := sessionReset (State.setDb { s with ph := .ctrlPoll } .ctrl d0)
  have hctrl : dbPoll .ctrl { s with ph := .ctrlPoll } = .ok t := hedge0.trans (ctrlEdge_of_still hr henv hsound)
  obtain ⟨d1, hd1, hedge1⟩ := dbPoll_of_pressReady (u := .func) (s := { t with ph := .funcPoll }) hr henv (hpress .func)
  let u := rolledStill (State.setDb { t with ph := .funcPoll } .func d1)
  have hfunc : dbPoll .func { t with ph := .funcPoll } = .ok u := hedge1.trans (funcEdge_of_still hr henv)
  have hmode : u.mode = .shortBreak := congrArg Rollover.mode hnext
  have hcyc : u.cyc = 1 := congrArg Rollover.cyc hnext
  have htgt : u.tgt = s.cfg.tShort := congrArg (fun r : Rollover => dur s.cfg r.mode) hnext
  have hshort : u.tgt ≠ 0 := by rw [htgt]; exact Nat.ne_of_gt hvalid.short.1
  obtain ⟨v, hrefresh, hlast, hv⟩ := refresh_of_sec_zero (s := { u with ph := .refresh }) hr henv rfl hshort hf hfits
  have hstb : ∀ b, (u.db b).stb = s.cfg.active := by
    intro b; cases b
    · exact hd0
    · exact hd1
  refine ⟨{ v with ph := .ctrlPoll }, runOp_of_ok hh (rst_not_due_of_none hr) (iter_of_ok hctrl hfunc hrefresh), ?_⟩
  rcases hv with rfl | rfl
  · exact ⟨hh, hmode, hcyc, htgt, rfl, rfl, rfl, hlast, hstb⟩
  · exact ⟨hh, hmode, hcyc, htgt, rfl, rfl, rfl, hlast, hstb⟩

/-! ### One second of a running session (43_session.md R192) -/


end Sys2Proof.Proofs

namespace Sys2Proof.Proofs

open Sys2Proof Sys2Proof.Machine

/-! ### One second of a running session with the buttons at rest (43_session.md R192) -/

/-- The environment of an iteration in which one `SECTICK` falls before the refresh's sample. -/
def withSecond (s : State) : State := { s with env := [[], [], [], [], [.secTick]] }

/-- Both pins and both instances are at the level that is not pressed. -/
def AtRest (s : State) : Prop :=
  ∀ u, s.btn u = !s.cfg.active ∧ (s.db u).raw = !s.cfg.active ∧ (s.db u).stb = !s.cfg.active

/-- The state of a refresh that has sampled the next second. -/
def secondSampled (s : State) : State := { s with env := [], ph := .refresh, sec := s.sec + 1 }

/-- A batch without moves only leaves the list. -/
theorem envMove_emptyBatch (s : State) (rest : List (List EnvMove)) :
    State.envMove { s with env := [] :: rest } = { s with env := rest } := rfl

theorem withSecond_atTickSample (s : State) : (withSecond s).atTickSample = { s with env := [[], [], [.secTick]] } := by
  rw [withSecond, State.atTickSample, envMove_emptyBatch, envMove_emptyBatch]

theorem withSecond_sampled (s : State) :
    (withSecond s).atTickSample.atTickSample = { s with env := [[.secTick]] } := by
  rw [withSecond_atTickSample, State.atTickSample, envMove_emptyBatch, envMove_emptyBatch]

theorem iter_withSecond {s : State} (hr : s.rst = none) (hrest : AtRest s) :
    iter (withSecond s) = phaseStep .refresh { s with env := [[.secTick]], ph := .refresh } := by
  have hnoReset : (withSecond s).NoReset := ⟨hr, by simp [withSecond, EnvMove.isRst]⟩
  obtain ⟨hbtn0, hraw0, hstb0⟩ := hrest .ctrl
  obtain ⟨hbtn1, hraw1, hstb1⟩ := hrest .func
  have hpin0 : (withSecond s).envMove.btn .ctrl = !s.cfg.active := by rw [withSecond, envMove_emptyBatch]; exact hbtn0
  have hpin1 : (withSecond s).atTickSample.envMove.btn .func = !s.cfg.active := by
    rw [withSecond_atTickSample, envMove_emptyBatch]; exact hbtn1
  have hp0 : pollFrom .ctrl (withSecond s).dbCtrl (withSecond s) = (s.dbCtrl, false) :=
    pollFrom_of_rest (hraw0.trans hpin0.symm) (hstb0.trans hpin0.symm)
  have hp1 : pollFrom .func (withSecond s).dbFunc (withSecond s).atTickSample = (s.dbFunc, false) :=
    pollFrom_of_rest (hraw1.trans hpin1.symm) (hstb1.trans hpin1.symm)
  rw [iter_of_quiet hnoReset (by rw [hp0]) (by rw [hp1]), withPolls, afterPolls, afterPolls, hp0, hp1,
    withSecond_sampled]

/-- The tick source runs, since `TMR_RUN = 1`, and the count does not wrap. -/
theorem envMove_secTick {s : State} (hrun : s.tmrRun = true) (hwidth : s.sec + 1 < 2 ^ s.cfg.wSec) :
    State.envMove { s with env := [[.secTick]], ph := .refresh } = secondSampled s := by
  have henabled : State.secTickEnabled { s with env := [], ph := .refresh } = true := by
    simp [State.secTickEnabled, hrun]
  have hcount : addMod s.cfg.wSec s.sec 1 = s.sec + 1 := addMod_one_of_lt hwidth
  change State.move { s with env := [], ph := .refresh } .secTick = _
  rw [State.move, if_pos henabled, hcount, secondSampled]

theorem noReset_secTick {s : State} (hr : s.rst = none) :
    State.NoReset { s with env := [[.secTick]], ph := .refresh } :=
  ⟨hr, by simp [EnvMove.isRst]⟩

/-- A second short of the target is drawn. -/
theorem exec_iter_second {s : State} (hh : s.halt = false) (hr : s.rst = none) (hrest : AtRest s)
    (hrun : s.tmrRun = true) (hwidth : s.sec + 1 < 2 ^ s.cfg.wSec) (hlast : s.last = s.sec) (htgt : s.sec + 1 ≠ s.tgt)
    (hlt : s.sec + 1 < 6000) (hf : compositeOk s.framing = true) (hn : FrameFits s.cfg) :
    exec .iter (withSecond s) = .next { (secondSampled s).rendered (s.sec + 1) with ph := .ctrlPoll } := by
  have hmoved := envMove_secTick hrun hwidth
  have hrefresh : refresh { s with env := [[.secTick]], ph := .refresh } =
      .ok ((secondSampled s).rendered (s.sec + 1)) := by
    rw [refresh_of_changed (noReset_secTick hr) (by rw [hmoved]; simp [secondSampled, hlast])
      (by rw [hmoved]; exact htgt), hmoved]
    exact render_of_rst_none _ _ hr hlt hf hn
  refine runOp_of_ok hh (rst_not_due_of_none hr) ?_
  rw [iter_withSecond hr hrest]
  exact phaseStep_of_ok .refresh _ _ hrefresh

/-- The second that reaches the target rolls over, and 00:00 is drawn. -/
theorem exec_iter_lastSecond {s : State} (hh : s.halt = false) (hr : s.rst = none) (hrest : AtRest s)
    (hrun : s.tmrRun = true) (hwidth : s.sec + 1 < 2 ^ s.cfg.wSec) (hlast : s.last = s.sec) (htgt : s.sec + 1 = s.tgt)
    (hf : compositeOk s.framing = true) (hn : FrameFits s.cfg) :
    exec .iter (withSecond s) = .next { (secondSampled s).autoRolled.rendered 0 with ph := .ctrlPoll } := by
  have hmoved := envMove_secTick hrun hwidth
  have hrefresh : refresh { s with env := [[.secTick]], ph := .refresh } =
      .ok ((secondSampled s).autoRolled.rendered 0) := by
    rw [refresh_of_rollover _ (noReset_secTick hr) (by rw [hmoved]; simp [secondSampled, hlast])
      (by rw [hmoved]; exact htgt) hf hn, hmoved]
  refine runOp_of_ok hh (rst_not_due_of_none hr) ?_
  rw [iter_withSecond hr hrest]
  exact phaseStep_of_ok .refresh _ _ hrefresh

/-! ### What the seconds of a Focus leave (95_test_vectors.md X6) -/

theorem rendered_trace (s : State) (e : Nat) : (s.rendered e).trace = s.trace ++ s.frameOfSecond e (!s.blink) := rfl

/-- A frame depends on the configuration and the operand bus only. -/
theorem frameOfSecond_congr {s t : State} (hcfg : t.cfg = s.cfg) (hbus : t.bus = s.bus) (e : Nat) (k : Bool) :
    t.frameOfSecond e k = s.frameOfSecond e k := by
  simp only [State.frameOfSecond, State.refreshDigits, hcfg, hbus]

theorem blinkAfter_succ (s : State) (n : Nat) : (!s.blinkAfter n) = s.blinkAfter (n + 1) := by
  have hparity : ((n + 1) % 2 == 1) = !(n % 2 == 1) := by
    rcases Nat.mod_two_eq_zero_or_one n with h | h <;> simp [Nat.add_mod, h]
  rw [State.blinkAfter, State.blinkAfter, hparity, Bool.xor_not]

theorem framesOfSeconds_succ (s : State) (n : Nat) :
    s.framesOfSeconds (n + 1) = s.framesOfSeconds n ++ s.frameOfSecond (n + 1) (s.blinkAfter (n + 1)) := by
  simp [State.framesOfSeconds, List.range_succ]

/-- `t` is the Focus of `s` after `n` of its seconds, all drawn. -/
structure FocusAfter (s : State) (n : Nat) (t : State) : Prop where
  cfg : t.cfg = s.cfg
  bus : t.bus = s.bus
  framing : compositeOk t.framing = true
  halt : t.halt = false
  rst : t.rst = none
  rest : AtRest t
  timer : t.tmrRun = true
  mode : t.mode = .focus
  cyc : t.cyc = 0
  tgt : t.tgt = s.cfg.tFocus
  sec : t.sec = n
  last : t.last = n
  blink : t.blink = s.blinkAfter n
  trace : t.trace = s.trace ++ s.framesOfSeconds n
  dig : n ≠ 0 → t.dig = toDigits n

/-- One more second, short of the target. -/
theorem FocusAfter.next {s t : State} {n : Nat} (h : FocusAfter s n t) (hc : s.cfg.Valid) (hn : FrameFits s.cfg)
    (hlt : n + 1 < s.cfg.tFocus) : ∃ u, exec .iter (withSecond t) = .next u ∧ FocusAfter s (n + 1) u := by
  obtain ⟨-, hmax, hwidth⟩ := hc.focus
  have hnext : t.sec + 1 = n + 1 := congrArg (· + 1) h.sec
  have hiter := exec_iter_second h.halt h.rst h.rest h.timer (by rw [hnext, h.cfg]; omega) (h.last.trans h.sec.symm)
    (by rw [hnext, h.tgt]; omega) (by omega) h.framing (h.cfg ▸ hn)
  rw [hnext] at hiter
  have hframe : ((secondSampled t).rendered (n + 1)).trace = s.trace ++ s.framesOfSeconds (n + 1) := by
    have hblink : (!(secondSampled t).blink) = s.blinkAfter (n + 1) := by rw [← blinkAfter_succ, ← h.blink]; rfl
    have htrace : (secondSampled t).trace = s.trace ++ s.framesOfSeconds n := h.trace
    rw [rendered_trace, htrace, hblink, frameOfSecond_congr (s := s) (t := secondSampled t) h.cfg h.bus,
      framesOfSeconds_succ, List.append_assoc]
  refine ⟨_, hiter, ?_⟩
  exact
    { cfg := h.cfg, bus := h.bus, framing := h.framing, halt := h.halt, rst := h.rst, rest := h.rest, timer := h.timer
      mode := h.mode, cyc := h.cyc, tgt := h.tgt, sec := hnext, last := rfl
      blink := by rw [← blinkAfter_succ, ← h.blink]; rfl
      trace := hframe
      dig := fun _ => rfl }

/-- The second that reaches the target: one rollover, its cue, and 00:00. -/
theorem FocusAfter.rollsOver {s t : State} {n : Nat} (h : FocusAfter s n t) (hc : s.cfg.Valid) (hn : FrameFits s.cfg)
    (hvar : s.cfg.cycVariant = .atFocusExit) (htarget : n + 1 = s.cfg.tFocus) :
    ∃ u, exec .iter (withSecond t) = .next u ∧ u.mode = .shortBreak ∧ u.cyc = 1 ∧ u.sec = 0 ∧ u.last = 0 ∧
      u.tgt = s.cfg.tShort ∧ u.buz = false ∧
      u.trace = s.trace ++ s.framesOfSeconds n ++ [.secClr, .buz true, .waitMs s.cfg.tBuzOnMs, .buz false] ++
        s.frameOfSecond 0 (s.blinkAfter (n + 1)) := by
  obtain ⟨-, -, hwidth⟩ := hc.focus
  have hnext : t.sec + 1 = n + 1 := congrArg (· + 1) h.sec
  have hiter := exec_iter_lastSecond h.halt h.rst h.rest h.timer (by rw [hnext, h.cfg]; omega)
    (h.last.trans h.sec.symm) (by rw [hnext, h.tgt, htarget]) h.framing (h.cfg ▸ hn)
  have hroll : nextMode (secondSampled t).cfg (secondSampled t).mode (secondSampled t).cyc = ⟨.shortBreak, 1, 1⟩ := by
    change nextMode t.cfg t.mode t.cyc = _
    rw [h.cfg, h.mode, h.cyc]
    exact nextMode_fresh_focus hc hvar
  have hrolled : (secondSampled t).rolled = rolledStill (secondSampled t) := rolled_of_env_nil rfl
  have htrace : (secondSampled t).autoRolled.trace =
      t.trace ++ [.secClr] ++ [.buz true, .waitMs s.cfg.tBuzOnMs, .buz false] := by
    rw [State.autoRolled, hrolled, hroll, ← h.cfg]
    rfl
  have hframe : ((secondSampled t).autoRolled.rendered 0).trace = s.trace ++ s.framesOfSeconds n ++
      [.secClr, .buz true, .waitMs s.cfg.tBuzOnMs, .buz false] ++ s.frameOfSecond 0 (s.blinkAfter (n + 1)) := by
    have hblink : (!(secondSampled t).autoRolled.blink) = s.blinkAfter (n + 1) := by
      rw [autoRolled_blink, ← blinkAfter_succ, ← h.blink]
      rfl
    have hbus : (secondSampled t).autoRolled.bus = s.bus := by rw [State.autoRolled, hrolled]; exact h.bus
    rw [rendered_trace, htrace, hblink, frameOfSecond_congr ((autoRolled_cfg (secondSampled t)).trans h.cfg) hbus,
      h.trace]
    simp
  refine ⟨_, hiter, ?mode, ?cyc, ?sec, rfl, ?tgt, rfl, hframe⟩
  all_goals simp only [State.rendered, State.autoRolled, hrolled, rolledStill, hroll]
  case tgt => exact congrArg (fun c => dur c .shortBreak) h.cfg

/-! ### The whole Focus -/

/-- The next state an operation answers, if it answers one. -/
def answered : Host.Outcome State Fault Refusal → Option State
  | .next t => some t
  | _ => none

/-- The first of `n + 1` seconds, and the others from there. -/
theorem runSeconds_first (n : Nat) (s : State) :
    runSeconds (n + 1) s = (answered (exec .iter (withSecond s))).bind (runSeconds n) := by
  rw [runSeconds, withSecond]
  cases exec .iter { s with env := [[], [], [], [], [.secTick]] } <;> rfl

/-- A second more, where the iteration answers. -/
theorem runSeconds_of_iter {n : Nat} {s t u : State} (ht : runSeconds n s = some t)
    (hu : exec .iter (withSecond t) = .next u) : runSeconds (n + 1) s = some u := by
  induction n generalizing s with
  | zero =>
    cases ht
    rw [runSeconds_first, hu]
    rfl
  | succ n ih =>
    rw [runSeconds_first] at ht ⊢
    obtain ⟨v, hv, hrest⟩ := Option.bind_eq_some_iff.mp ht
    rw [hv, Option.bind_some]
    exact ih hrest

theorem runSeconds_focus {s : State} (h : FocusAfter s 0 s) (hc : s.cfg.Valid) (hn : FrameFits s.cfg) {n : Nat}
    (hlt : n < s.cfg.tFocus) : ∃ t, runSeconds n s = some t ∧ FocusAfter s n t := by
  induction n with
  | zero => exact ⟨s, rfl, h⟩
  | succ n ih =>
    obtain ⟨t, ht, hafter⟩ := ih (Nat.lt_of_succ_lt hlt)
    obtain ⟨u, hu, hnext⟩ := hafter.next hc hn hlt
    exact ⟨u, runSeconds_of_iter ht hu, hnext⟩

/-- Settles O40, by induction on the seconds short of the target, and one iteration at the target. -/
theorem focusRollsOverAfterItsDuration : Obligations.FocusRollsOverAfterItsDuration := by
  intro s hok hn hvar hh hr hframing hmode hcyc hrun hsec hlast hrest
  have hstart : FocusAfter s 0 s :=
    { cfg := rfl, bus := rfl, framing := compositeOk_iff.mpr hframing, halt := hh, rst := hr, rest := hrest
      timer := hok.timer.trans hrun, mode := hmode, cyc := hcyc
      tgt := by rw [hok.target, hmode]; rfl
      sec := hsec, last := hlast
      blink := by simp [State.blinkAfter]
      trace := by simp [State.framesOfSeconds]
      dig := fun h => absurd rfl h }
  refine ⟨fun n hlt => ?short, ?target⟩
  case short =>
    obtain ⟨t, ht, hafter⟩ := runSeconds_focus hstart hok.valid hn hlt
    exact ⟨t, ht, hafter.mode, hafter.sec, hafter.last, hafter.trace, hafter.dig⟩
  case target =>
    have hpred : s.cfg.tFocus - 1 + 1 = s.cfg.tFocus := Nat.sub_add_cancel hok.valid.focus.1
    obtain ⟨t, ht, hafter⟩ := runSeconds_focus hstart hok.valid hn (n := s.cfg.tFocus - 1) (by omega)
    obtain ⟨u, hu, hfields⟩ := hafter.rollsOver hok.valid hn hvar hpred
    have hall := runSeconds_of_iter ht hu
    rw [hpred] at hall hfields
    exact ⟨u, hall, hfields⟩

end Sys2Proof.Proofs

namespace Sys2Proof.Proofs

open Sys2Proof Sys2Proof.Machine

/-! ### Operations issued one after another (30_encoding.md R116) -/

theorem runList_cons_of_next {i : Instr} {is : List Instr} {s t : State} (h : exec i s = .next t) :
    runList (i :: is) s = runList is t := by
  rw [runList, h]

theorem runList_append_of_some {is js : List Instr} {s t : State} (h : runList is s = some t) :
    runList (is ++ js) s = runList js t := by
  induction is generalizing s with
  | nil => cases h; rfl
  | cons i is ih =>
    rw [runList] at h
    split at h
    · next u hu => rw [List.cons_append, runList_cons_of_next hu]; exact ih h
    · cases h

theorem exec_start_of_rst_none {s : State} {f : Option Tracker} (hh : s.halt = false) (hr : s.rst = none)
    (hf : trackNext s.framing .start = some f) :
    exec .start s = .next { s with framing := f, clk := true, dio := false, trace := s.trace ++ symS s.cfg } :=
  runOp_of_ok hh (rst_not_due_of_none hr) (start_of_rst_none s f hr hf)

theorem exec_stop_of_rst_none {s : State} {f : Option Tracker} (hh : s.halt = false) (hr : s.rst = none)
    (hf : trackNext s.framing .stop = some f) :
    exec .stop s = .next { s with framing := f, clk := true, dio := true, trace := s.trace ++ symP s.cfg } :=
  runOp_of_ok hh (rst_not_due_of_none hr) (stop_of_rst_none s f hr hf)

theorem exec_wrbyte_of_rst_none (b : Byte) {s : State} {f : Option Tracker} (hh : s.halt = false) (hr : s.rst = none)
    (hf : trackNext s.framing .byte = some f) :
    exec (.wrbyte b) s = .next { s with
      framing := f, clk := true, dio := b.getLsbD 7, shr := 0, bitc := 0, trace := s.trace ++ symByte s.cfg b } :=
  runOp_of_ok hh (rst_not_due_of_none hr) (wrByte_of_rst_none b s f hr hf)

theorem exec_waitack_of_rst_none {s : State} {f : Option Tracker} (hh : s.halt = false) (hr : s.rst = none)
    (hf : trackNext s.framing .ack = some f) :
    exec .waitack s = .next { s with framing := f, clk := false, trace := s.trace ++ symA s.cfg } :=
  runOp_of_ok hh (rst_not_due_of_none hr) (waitAck_of_rst_none s f hr hf)

/-- A byte and its acknowledge slot, issued as two operations. -/
theorem runList_ackedByte {b : Byte} {is : List Instr} {s : State} {f : Option Tracker} (hh : s.halt = false)
    (hr : s.rst = none) (hf : compositeOk f = true) (hbyte : trackNext s.framing .byte = some (f.map fun _ => .sent)) :
    runList (.wrbyte b :: .waitack :: is) s = runList is { s with
      framing := f.map fun _ => .open1
      clk := false
      dio := b.getLsbD 7
      shr := 0
      bitc := 0
      trace := s.trace ++ (symByte s.cfg b ++ symA s.cfg) } := by
  obtain ⟨-, -, hack, -, -⟩ := track_open hf
  rw [runList_cons_of_next (exec_wrbyte_of_rst_none b hh hr hbyte),
    runList_cons_of_next (exec_waitack_of_rst_none (by exact hh) (by exact hr) (by exact hack))]
  simp only [List.append_assoc]

/-- `START`, a byte in its slot, and whatever follows in the transaction. -/
theorem runList_opened {b : Byte} {is : List Instr} {s : State} (hh : s.halt = false) (hr : s.rst = none)
    (hf : compositeOk s.framing = true) :
    runList (.start :: .wrbyte b :: .waitack :: is) s = runList is { s with
      framing := s.framing.map fun _ => .open1
      clk := false
      dio := b.getLsbD 7
      shr := 0
      bitc := 0
      trace := s.trace ++ symS s.cfg ++ (symByte s.cfg b ++ symA s.cfg) } := by
  obtain ⟨hstart, hbyte, -, -, -⟩ := track_open hf
  rw [runList_cons_of_next (exec_start_of_rst_none hh hr hstart)]
  exact runList_ackedByte hh hr hf hbyte

theorem exec_command_of_rst_none {b : Byte} {i : Instr} (hi : i ∈ [Instr.wrdatacmd b, Instr.wrdispcmd b]) {s : State}
    (hh : s.halt = false) (hr : s.rst = none) (hf : compositeOk s.framing = true) :
    exec i s = .next { s with
      clk := true, dio := true, shr := 0, bitc := 0, trace := s.trace ++ transaction s.cfg [b] } := by
  rw [exec_command hi]
  exact runOp_of_ok hh (rst_not_due_of_none hr) (sendCommand_of_rst_none b s hr hf)

/-- Settles O14: the four primitives emit the transaction of one byte and leave the checker where it was. -/
theorem commandsEqualTheirExpansion : Obligations.CommandsEqualTheirExpansion := by
  intro b s hh hr hframing
  have hf : compositeOk s.framing = true := compositeOk_iff.mpr hframing
  obtain ⟨-, -, -, -, hstop⟩ := track_open hf
  refine ⟨_, exec_command_of_rst_none (b := b) (by simp) hh hr hf,
    exec_command_of_rst_none (b := b) (by simp) hh hr hf, ?_⟩
  rw [runList_opened hh hr hf, 
    runList_cons_of_next (exec_stop_of_rst_none (by exact hh) (by exact hr) (by exact hstop)), runList]
  simp [transaction, ackedBytes]

/-- The digits of a frame, issued byte by byte in an open transaction. -/
theorem runList_digits (k : Bool) (ds : List Digit) {s : State} {f : Option Tracker} (hh : s.halt = false)
    (hr : s.rst = none) (hf : compositeOk f = true) (hs : s.framing = f.map fun _ => .open1) :
    ∃ d, runList (ds.flatMap fun d => [.wrbyte (wireGlyph s.cfg k d), .waitack]) s = some { s with
      clk := if ds = [] then s.clk else false
      dio := d
      shr := if ds = [] then s.shr else 0
      bitc := if ds = [] then s.bitc else 0
      trace := s.trace ++ ackedBytes s.cfg (ds.map (wireGlyph s.cfg k)) } := by
  obtain ⟨-, -, -, hbyte, -⟩ := track_open hf
  induction ds generalizing s with
  | nil => exact ⟨s.dio, by simp [runList, ackedBytes]⟩
  | cons d ds ih =>
    obtain ⟨d', hd⟩ := ih (s := { s with
      framing := f.map fun _ => .open1
      clk := false
      dio := (wireGlyph s.cfg k d).getLsbD 7
      shr := 0
      bitc := 0
      trace := s.trace ++ (symByte s.cfg (wireGlyph s.cfg k d) ++ symA s.cfg) }) hh hr rfl
    refine ⟨d', ?_⟩
    rw [List.flatMap_cons]
    change runList (.wrbyte _ :: .waitack :: _) s = _
    rw [runList_ackedByte hh hr hf (hs ▸ hbyte)]
    refine hd.trans ?_
    simp [ackedBytes, hs, ite_self]

/-- The state the expansion of a frame leads to: that of `WRFRAME`, but for `IDX`. -/
def frameSent (s : State) (k : Bool) (dcmd addr : Byte) (ds : List Digit) (disp : Byte) : State :=
  { s with
    clk := true
    dio := true
    shr := 0
    bitc := 0
    trace := s.trace ++ frameEvents s.cfg k dcmd addr ds disp }

theorem runList_frameExpansion (k : Bool) (dcmd addr : Byte) (ds : List Digit) (disp : Byte) {s : State}
    (hh : s.halt = false) (hr : s.rst = none) (hf : compositeOk s.framing = true) :
    runList (frameExpansion s.cfg k dcmd addr ds disp) s = some (frameSent s k dcmd addr ds disp) := by
  obtain ⟨-, -, -, -, hstop⟩ := track_open hf
  obtain ⟨d, hdigits⟩ := runList_digits k ds (f := s.framing) (s := { s with
      framing := s.framing.map fun _ => .open1
      clk := false
      dio := addr.getLsbD 7
      shr := 0
      bitc := 0
      trace := s.trace ++ transaction s.cfg [dcmd] ++ symS s.cfg ++ (symByte s.cfg addr ++ symA s.cfg) }) hh hr hf rfl
  rw [frameExpansion, List.append_assoc]
  refine (runList_cons_of_next (exec_command_of_rst_none (b := dcmd) (by simp) hh hr hf)).trans ?_
  refine (runList_opened (by exact hh) (by exact hr) (by exact hf)).trans ?_
  refine (runList_append_of_some hdigits).trans ?_
  refine (runList_cons_of_next (exec_stop_of_rst_none (by exact hh) (by exact hr) (by exact hstop))).trans ?_
  refine (runList_cons_of_next (exec_command_of_rst_none (b := disp) (by simp) (by exact hh) (by exact hr)
    (by exact hf))).trans ?_
  simp [runList, frameSent, frameEvents, transaction, ackedBytes]

/-- Settles O16: the expansion emits the frame transaction by transaction; only `IDX` is not counted. -/
theorem writeFrameEqualsItsExpansion : Obligations.WriteFrameEqualsItsExpansion := by
  intro s k n hh hr hframing hmin hmax hsix hdigits
  have hf : compositeOk s.framing = true := compositeOk_iff.mpr hframing
  have hframe := wrFrame_of_rst_none n.toNat k s.bus.fDcmd s.bus.fAddr s.bus.fDig s.bus.fDisp s hr hf
    (frameLengthOk_iff.mpr ⟨hmin, hmax, hsix⟩) (glyphRangeOk_iff.mpr hdigits)
  rw [BitVec.ofNat_toNat, BitVec.setWidth_eq] at hframe
  exact ⟨_, runList_frameExpansion k _ _ _ _ hh hr hf, runOp_of_ok hh (rst_not_due_of_none hr) hframe⟩

/-! ### The number of events (30_encoding.md R92, R93, R95) -/

theorem ackedBytes_length (c : Config) (bs : List Byte) : (ackedBytes c bs).length = 45 * bs.length := by
  induction bs with
  | nil => rfl
  | cons b bs ih =>
    have hbyte : (symByte c b ++ symA c).length = 45 := rfl
    rw [ackedBytes, List.flatMap_cons, List.length_append, hbyte, ← ackedBytes, ih, List.length_cons]
    omega

theorem transaction_length (c : Config) (bs : List Byte) : (transaction c bs).length = 45 * bs.length + 11 := by
  have hstart : (symS c).length = 4 := rfl
  have hstop : (symP c).length = 7 := rfl
  rw [transaction, List.length_append, List.length_append, hstart, ackedBytes_length, hstop]
  omega

/-- Settles O18: 45 events for each byte in its slot and 11 around them, for each of a frame's three transactions. -/
theorem wireFormatEventCounts : Obligations.WireFormatEventCounts := by
  refine fun c k dcmd addr disp ds bs => ⟨transaction_length c bs, ?_⟩
  simp only [frameEvents, List.length_append, transaction_length, List.length_cons, List.length_map, List.length_nil]
  omega

end Sys2Proof.Proofs

namespace Sys2Proof.Proofs

open Sys2Proof Sys2Proof.Machine

/-! ### Sequences of polls (42_debounce.md R175, R176, R180) -/

theorem pollAll_cons (c : Config) (d : Debounce) (r : Bool) (t : Nat) (ps : List (Bool × Nat)) :
    pollAll c d ((r, t) :: ps) =
      ((pollAll c (d.poll c r t).1 ps).1, (d.poll c r t).2 :: (pollAll c (d.poll c r t).1 ps).2) := rfl

theorem pollAll_append (c : Config) (d : Debounce) (ps qs : List (Bool × Nat)) :
    pollAll c d (ps ++ qs) = ((pollAll c (pollAll c d ps).1 qs).1,
      (pollAll c d ps).2 ++ (pollAll c (pollAll c d ps).1 qs).2) := by
  induction ps generalizing d with
  | nil => rfl
  | cons p ps ih =>
    obtain ⟨r, t⟩ := p
    rw [List.cons_append, pollAll_cons, pollAll_cons, ih, List.cons_append]

/-- Polls at the resting level change nothing and fire nothing. -/
theorem pollAll_rest (c : Config) (v : Bool) (x : Nat) (ts : List Nat) :
    pollAll c ⟨v, v, x⟩ (ts.map fun t => (v, t)) = (⟨v, v, x⟩, ts.map fun _ => false) := by
  induction ts with
  | nil => rfl
  | cons t ts ih => rw [List.map_cons, pollAll_cons, poll_rest_same, ih, List.map_cons]

/-- A debouncer that saw a press at tick `t0` and has not committed it. -/
def pressPending (c : Config) (t0 : Nat) : Debounce := ⟨c.active, !c.active, t0⟩

/-- The poll that first sees a press begins the window. -/
theorem poll_first_press {c : Config} {d : Debounce} (t0 : Nat) (hraw : d.raw = !c.active) (hstb : d.stb = !c.active) :
    d.poll c c.active t0 = (pressPending c t0, false) := by
  rw [poll_of_ne_raw c t0 (by simp [hraw]), hstb, pressPending]

theorem poll_pending_within {c : Config} {t0 t : Nat} (h : subMod c.wTick t t0 ≤ c.dbThreshold) :
    (pressPending c t0).poll c c.active t = (pressPending c t0, false) := by
  have hchange : changeTick (pressPending c t0) c.active t = t0 := changeTick_of_eq t rfl
  have hnot : ¬ c.dbThreshold < subMod c.wTick t (changeTick (pressPending c t0) c.active t) := by
    rw [hchange]; exact Nat.not_lt.mpr h
  refine Prod.ext ?_ (Bool.eq_false_iff.mpr fun hfires => hnot (poll_fires_iff.mp hfires).1)
  rw [poll_registers, if_neg hnot, hchange]
  rfl

theorem poll_pending_past {c : Config} {t0 t : Nat} (h : c.dbThreshold < subMod c.wTick t t0) :
    (pressPending c t0).poll c c.active t = (⟨c.active, c.active, t0⟩, true) := by
  have hchange : changeTick (pressPending c t0) c.active t = t0 := changeTick_of_eq t rfl
  have hwindow : c.dbThreshold < subMod c.wTick t (changeTick (pressPending c t0) c.active t) := by rwa [hchange]
  refine Prod.ext ?_ (poll_fires_iff.mpr ⟨hwindow, by simp [pressPending], rfl⟩)
  rw [poll_registers_of_elapsed hwindow, hchange]

/-- A pending press that stays fires at the first poll past the window and at no other. -/
theorem pollAll_pending_fires (c : Config) (t0 : Nat) (ts : List Nat) :
    (pollAll c (pressPending c t0) (ts.map fun t => (c.active, t))).2 =
      onlyFirst (ts.map fun t => decide (c.dbThreshold < subMod c.wTick t t0)) := by
  induction ts with
  | nil => rfl
  | cons t ts ih =>
    rw [List.map_cons, List.map_cons, pollAll_cons]
    by_cases h : c.dbThreshold < subMod c.wTick t t0
    case pos =>
      rw [poll_pending_past h, pollAll_rest, decide_eq_true h, onlyFirst, List.map_map]
      rfl
    case neg => rw [poll_pending_within (Nat.not_lt.mp h), ih, decide_eq_false h, onlyFirst]

/-- Settles O25: the first poll begins the window, and the pending press fires once. -/
theorem sustainedPressFiresExactlyOnce : Obligations.SustainedPressFiresExactlyOnce := by
  intro c d t0 ts hraw hstb
  rw [pollAll_cons, poll_first_press t0 hraw hstb, pollAll_pending_fires]

theorem pollAll_pending_within {c : Config} {t0 : Nat} {ts : List Nat}
    (h : ∀ t ∈ ts, subMod c.wTick t t0 ≤ c.dbThreshold) :
    pollAll c (pressPending c t0) (ts.map fun t => (c.active, t)) = (pressPending c t0, ts.map fun _ => false) := by
  induction ts with
  | nil => rfl
  | cons t ts ih =>
    rw [List.map_cons, pollAll_cons, poll_pending_within (h t (by simp)), ih fun t' ht' => h t' (by simp [ht']),
      List.map_cons]

/-- A press that ends before its commit leaves nothing behind. -/
theorem pollAll_pending_released (c : Config) (t0 : Nat) (rs : List Nat) :
    (pollAll c (pressPending c t0) (rs.map fun t => (!c.active, t))).1.stb = !c.active ∧
      ∀ b ∈ (pollAll c (pressPending c t0) (rs.map fun t => (!c.active, t))).2, b = false := by
  cases rs with
  | nil => exact ⟨rfl, by simp [pollAll]⟩
  | cons t rs =>
    have hrelease : (pressPending c t0).poll c (!c.active) t = (⟨!c.active, !c.active, t⟩, false) :=
      poll_of_ne_raw c t (by simp [pressPending])
    rw [List.map_cons, pollAll_cons, hrelease, pollAll_rest]
    exact ⟨rfl, by simp⟩

/-- Settles O26: within the window the press stays pending, and its release ends it. -/
theorem shortPressFiresNothing : Obligations.ShortPressFiresNothing := by
  intro c d t0 ts rs hraw hstb hwithin
  obtain ⟨hfinal, hsilent⟩ := pollAll_pending_released c t0 rs
  rw [List.cons_append, pollAll_cons, poll_first_press t0 hraw hstb, pollAll_append, pollAll_pending_within hwithin]
  refine ⟨hfinal, fun b hb => ?_⟩
  simp only [List.mem_cons, List.mem_append, List.mem_map] at hb
  rcases hb with rfl | ⟨t, -, rfl⟩ | hb
  · rfl
  · rfl
  · exact hsilent b hb

/-! ### The mode sequence (43_session.md R188) -/

theorem rollMany_succ (c : Config) (n : Nat) (x : Mode × Nat) :
    rollMany c (n + 1) x =
      ((nextMode c (rollMany c n x).1 (rollMany c n x).2).mode,
        (nextMode c (rollMany c n x).1 (rollMany c n x).2).cyc) := by
  induction n generalizing x with
  | zero => rfl
  | succ n ih => rw [rollMany, ih, rollMany]

/-- Settles O33, by induction on the cycles: each is a rollover out of Focus and one out of ShortBreak. -/
theorem longBreakAfterCycLimitCycles : Obligations.LongBreakAfterCycLimitCycles := by
  intro c hc hvar
  have hbreak : ∀ {n k}, k < c.cycLimit → rollMany c n (.focus, 0) = (.focus, k) →
      rollMany c (n + 1) (.focus, 0) = (.shortBreak, k + 1) := by
    intro n k hk hn
    rw [rollMany_succ, hn, nextMode_atFocusExit hvar, nextAtFocusExit, addMod_one_of_valid hc hk]
  have hfocus : ∀ k, k < c.cycLimit → rollMany c (2 * k) (.focus, 0) = (.focus, k) := by
    intro k
    induction k with
    | zero => exact fun _ => rfl
    | succ k ih =>
      intro hk
      rw [Nat.mul_succ, rollMany_succ, hbreak (Nat.lt_of_succ_lt hk) (ih (Nat.lt_of_succ_lt hk)),
        nextMode_atFocusExit hvar, nextAtFocusExit_short_of_lt hk]
  have hlong : rollMany c (2 * c.cycLimit) (.focus, 0) = (.longBreak, 0) := by
    obtain ⟨k, hk⟩ : ∃ k, c.cycLimit = k + 1 := Nat.exists_eq_add_of_le' hc.limit.1
    have hlt : k < c.cycLimit := by omega
    rw [hk, Nat.mul_succ, rollMany_succ, hbreak hlt (hfocus k hlt), nextMode_atFocusExit hvar,
      nextAtFocusExit_short_of_ge hk.le]
  refine ⟨fun k hk => ⟨hfocus k hk, hbreak hk (hfocus k hk)⟩, hlong, ?_⟩
  rw [rollMany_succ, hlong, nextMode_atFocusExit hvar]
  rfl

/-! ### What the serial engine, `TODIGITS` and `CUE` leave alone (10_state.md R20, 43_session.md R185) -/

/-- The session, debounce and refresh registers, and what is still to come. -/
def outsideWire (s : State) : Mode × Nat × Nat × Bool × Bool × Nat × Nat × Debounce × Debounce × Digits × Bool × Nat ×
    Phase × List (List EnvMove) × List Issue :=
  (s.mode, s.tgt, s.cyc, s.run, s.tmrRun, s.sec, s.tick, s.dbCtrl, s.dbFunc, s.dig, s.blink, s.last, s.ph, s.env,
    s.issued)

/-- No reset is pending, and those registers are as in `s₀`. -/
structure SameOutside (s₀ s : State) : Prop where
  rst : s.rst = none
  view : outsideWire s = outsideWire s₀

theorem sameOutside_wireKept (s₀ : State) : WireKept (SameOutside s₀) (SameOutside s₀) where
  line s hs := by rw [line_of_rst_none s hs.rst]; exact hs
  log _ _ hs := ⟨hs.rst, hs.view⟩
  clk _ _ hs := ⟨hs.rst, hs.view⟩
  dio _ _ hs := ⟨hs.rst, hs.view⟩
  idx _ _ hs := ⟨hs.rst, hs.view⟩
  shr _ _ hs := ⟨hs.rst, hs.view⟩
  bitc _ _ hs := ⟨hs.rst, hs.view⟩
  framing _ _ hs := ⟨hs.rst, hs.view⟩

theorem toDigitsOp_sameOutside {s₀ s : State} (hs : SameOutside s₀ s) :
    (toDigitsOp s).Sat (SameOutside s₀) (SameOutside s₀) := by
  unfold toDigitsOp encodeDigits
  split
  · exact ⟨hs.rst, hs.view⟩
  · exact ⟨hs.rst, hs.view⟩

theorem cue_sameOutside (p : Nat) {s₀ s : State} (hs : SameOutside s₀ s) :
    (cue p s).Sat (SameOutside s₀) (SameOutside s₀) := by
  by_cases hp : p = 0
  · rw [cue, if_pos hp]; trivial
  · rw [cue_of_rst_none p hp s hs.rst]; exact ⟨hs.rst, hs.view⟩

/-- Settles O46: the lines of these nine operations write none of the registers, nor does a halt. -/
theorem wireOperationsLeaveTheSessionAlone : Obligations.WireOperationsLeaveTheSessionAlone := by
  intro i s t hr hh hexec hi
  have hs : SameOutside s s := ⟨hr, rfl⟩
  have hwire := sameOutside_wireKept s
  have hlines : (opLines s.bus i s).Sat (SameOutside s) (SameOutside s) := by
    cases i
    case start => exact hwire.start s hs
    case stop => exact hwire.stop s hs
    case wrbyte b => exact hwire.wrByte b s hs
    case waitack => exact hwire.waitAck s hs
    case wrdatacmd b => exact hwire.sendCommand b s hs
    case wrdispcmd b => exact hwire.sendCommand b s hs
    case wrframe k n => exact hwire.wrFrame _ _ _ _ _ _ s hs fun _ => ⟨hr, rfl⟩
    case todigits => exact toDigitsOp_sameOutside hs
    case cue p => exact cue_sameOutside _ hs
    all_goals exact hi.elim
  rw [exec_eq_runOp] at hexec
  have ht : outsideWire t = outsideWire s := by
    rcases runOp_answer hh (rst_not_due_of_none hr) hlines hexec with ⟨-, ht⟩ | ⟨-, ht⟩
    · exact ht.view
    · exact ht.view
  simpa only [outsideWire, Prod.mk.injEq] using ht

/-! ### The halted state (60_exceptions.md R246) -/

/-- Settles O48: a halted PTC only lets the environment move. -/
theorem haltedStateIsAbsorbing : Obligations.HaltedStateIsAbsorbing := by
  intro i s hh h
  refine ⟨?_, fun hwired => ?_, s.envMove_trace, s.envMove_halt.trans hh, s.envMove_hcause⟩
  · rw [exec_eq_runOp, runOp_of_halted _ hh h]
  · rw [step_of_wired hwired, runOp_of_halted _ hh h]

/-- The run of `s` has ended in `t`, and a new one begins. -/
def RunEnded (s t : State) : Prop := t.pastRuns = s.pastRuns ++ [s.trace] ∧ t.trace = []

/-- What a whole operation answers from the halted state: halted still, or reset. -/
theorem runOp_leaves_halt {o : Op} {s t : State} (hh : s.halt = true) (h : runOp o s = .next t)
    (ht : t.halt = false) : RunEnded s t := by
  have hpoint : (envPoint s).Sat (fun t => t.halt = false → RunEnded s t) fun t => t.halt = false → RunEnded s t := by
    refine envPoint_sat s (fun h => ?_) (fun k h => ?_) fun _ => ?_
    · simp [hh] at h
    · simp [hh] at h
    · exact ⟨by simp, rfl⟩
  refine runOp_sat (Q := fun t => t.halt = false → RunEnded s t) o s t h (fun _ => ⟨rfl, rfl⟩) (fun _ => hpoint)
    (fun hf => ?_) ht
  simp [hh] at hf

/-- Settles O49: a halted step runs no operation, so what leaves the halt is a reset. -/
theorem onlyResetLeavesTheHaltedState : Obligations.OnlyResetLeavesTheHaltedState := by
  intro s t hh hstep ht
  rcases step_cases s t hstep with ⟨-, hrun⟩ | ⟨q, rest, i, -, -, hexec⟩
  · exact runOp_leaves_halt hh hrun ht
  · rw [exec_eq_runOp] at hexec
    exact runOp_leaves_halt (s := s.accept q rest) hh hexec ht

/-! ### What cannot fail (60_exceptions.md R262) -/

/-- The most `SEC` can have counted after some moves. -/
theorem foldl_move_sec_le (ms : List EnvMove) (s : State) :
    (ms.foldl State.move s).sec ≤ s.sec + (ms.filter EnvMove.isSecTick).length := by
  induction ms generalizing s with
  | nil => exact Nat.le_refl _
  | cons m ms ih =>
    have hmove : (s.move m).sec ≤ s.sec + ([m].filter EnvMove.isSecTick).length := by
      rcases m with _ | _ | ⟨u, v⟩ | v | k
      case secTick =>
        simp only [State.move]
        split
        · exact Nat.mod_le _ _
        · exact Nat.le_add_right _ _
      case btn => cases u <;> exact Nat.le_refl _
      all_goals exact Nat.le_refl _
    have hsplit : ((m :: ms).filter EnvMove.isSecTick).length =
        ([m].filter EnvMove.isSecTick).length + (ms.filter EnvMove.isSecTick).length := by
      rw [← List.length_append, ← List.filter_append]
      rfl
    have hrest := ih (s.move m)
    rw [List.foldl_cons, hsplit]
    omega

theorem secReach_envMove_le (s : State) : s.envMove.secReach ≤ s.secReach := by
  rw [State.secReach, State.secReach, State.envMove_env]
  cases henv : s.env with
  | nil => rw [s.envMove_of_env_nil henv]; exact Nat.le_refl _
  | cons ms rest =>
    have hsec : s.envMove.sec ≤ s.sec + (ms.filter EnvMove.isSecTick).length := by
      rw [State.envMove, henv]
      exact foldl_move_sec_le ms _
    simp only [List.tail_cons, List.flatten_cons, List.filter_append, List.length_append]
    omega

theorem foldl_move_tmrFail (ms : List EnvMove) (s : State) (hs : s.tmrFail = false)
    (h : ∀ m ∈ ms, m.failsTimer = false) : (ms.foldl State.move s).tmrFail = false := by
  induction ms generalizing s with
  | nil => exact hs
  | cons m ms ih =>
    refine ih _ ?_ fun m' hm' => h m' (by simp [hm'])
    have hm := h m (by simp)
    rcases m with _ | _ | ⟨u, v⟩ | v | k
    case secTick => simp only [State.move]; split <;> exact hs
    case btn => cases u <;> exact hs
    case tmrFail => exact hm
    all_goals exact hs

theorem timerSound_envMove {s : State} (h : s.TimerSound) : s.envMove.TimerSound := by
  obtain ⟨hnow, hmoves⟩ := h
  refine ⟨?_, fun ms hms => hmoves ms (List.mem_of_mem_tail (s.envMove_env ▸ hms))⟩
  unfold State.envMove
  split
  · exact hnow
  · next ms rest henv => exact foldl_move_tmrFail ms _ hnow (hmoves ms (by simp [henv]))

/-- Not halted, with a sound timer, and `SEC` cannot reach 6000. -/
structure CannotFail (s : State) : Prop where
  running : s.halt = false
  timer : s.TimerSound
  reach : s.secReach < 6000

/-- A refresh renders only seconds below 6000. -/
def drawableValues : Values := ⟨fun v => v < 6000, fun _ => True, fun _ => True⟩

namespace CannotFail

variable {s t : State}

theorem of_view (hs : CannotFail s) (h : (t.halt, t.tmrFail, t.env, t.sec) = (s.halt, s.tmrFail, s.env, s.sec)) :
    CannotFail t := by
  simp only [Prod.mk.injEq] at h
  obtain ⟨hhalt, htmr, henv, hsec⟩ := h
  obtain ⟨running, ⟨now, moves⟩, reach⟩ := hs
  refine ⟨hhalt.trans running, ⟨htmr.trans now, henv ▸ moves⟩, ?_⟩
  rwa [State.secReach, hsec, henv]

theorem clearSec (hs : CannotFail s) : CannotFail { s with sec := 0 } :=
  ⟨hs.running, hs.timer, Nat.lt_of_le_of_lt (Nat.add_le_add_right (Nat.zero_le _) _) hs.reach⟩

theorem restart (hs : CannotFail s) : CannotFail s.restart := ⟨rfl, hs.timer, hs.clearSec.reach⟩

theorem envMove (hs : CannotFail s) : CannotFail s.envMove :=
  ⟨s.envMove_halt.trans hs.running, timerSound_envMove hs.timer, Nat.lt_of_le_of_lt (secReach_envMove_le s) hs.reach⟩

theorem line (hs : CannotFail s) : (line s).Sat CannotFail CannotFail :=
  line_sat s hs (fun _ => hs.of_view rfl) hs.restart

/-- Neither of the two halts a phase can take is reached. -/
theorem kept : Kept drawableValues CannotFail CannotFail where
  line _ hs := hs.line
  envPoint _ hs := hs.envMove.line
  log _ _ hs := hs.of_view rfl
  clk _ _ hs := hs.of_view rfl
  dio _ _ hs := hs.of_view rfl
  idx _ _ hs := hs.of_view rfl
  shr _ _ hs := hs.of_view rfl
  bitc _ _ hs := hs.of_view rfl
  framing _ _ hs := hs.of_view rfl
  buz _ _ hs := hs.of_view rfl
  secClear _ hs := hs.clearSec
  tmrRun _ _ hs := hs.of_view rfl
  run _ _ hs := hs.of_view rfl
  mode _ _ hs := hs.of_view rfl
  cyc _ _ hs _ := hs.of_view rfl
  tgt _ _ hs := hs.of_view rfl
  dig _ _ hs _ := hs.of_view rfl
  blink _ _ hs := hs.of_view rfl
  last _ _ hs _ := hs.of_view rfl
  qDig _ _ hs := hs.of_view rfl
  observe _ _ _ _ hs _ := hs.of_view (by simp)
  commit _ _ _ hs := hs.of_view (by simp)
  nextCyc _ _ := trivial
  zeroCyc := trivial
  zeroLast := (by decide : 0 < 6000)
  sampleLast _ hs := Nat.lt_of_le_of_lt (Nat.le_add_right _ _) hs.reach
  sampleChg _ _ := trivial
  timerHalt _ _ hs hfails _ := by simp [hs.timer.1] at hfails
  digitHalt _ _ _ hlt hlarge := absurd hlt (Nat.not_lt.mpr hlarge)

end CannotFail

/-- Settles O54: a phase keeps the premises, which exclude both of its halts. -/
theorem soundTimerNeverHalts : Obligations.SoundTimerNeverHalts := by
  intro s t hwired hh hsound hreach hstep
  have hs : CannotFail s := ⟨hh, hsound, hreach⟩
  rw [step_of_wired hwired] at hstep
  have ht : CannotFail t := runOp_sat _ s t hstep hs.restart (fun _ => hs.envMove.line)
    fun _ => CannotFail.kept.phaseStep (fun _ _ h => h.of_view rfl) s.ph s hs
  exact ht.running

/-! ### The tracker, the environment, and the reset state -/

/-- Settles O8: the table's five rows, and none for the other eleven pairs. -/
theorem framingTrackerTable : Obligations.FramingTrackerTable := by
  intro t t' p
  cases t <;> cases p <;> simp [Tracker.next, eq_comm]

theorem standard_valid : Config.standard.Valid := by
  constructor <;> decide

/-- Settles O42: the reset values, at the defaults too. -/
theorem sessionInvariantHoldsAtReset : Obligations.SessionInvariantHoldsAtReset :=
  ⟨fun _ hc => sessionOk_resetWith hc, sessionOk_resetWith standard_valid⟩

theorem move_secTick_of_enabled {s : State} (h : s.cfg.secTickGated = false ∨ s.tmrRun = true) :
    s.move .secTick = { s with sec := addMod s.cfg.wSec s.sec 1 } := by
  have henabled : s.secTickEnabled = true := by rcases h with h | h <;> simp [State.secTickEnabled, h]
  rw [State.move, if_pos henabled]

theorem move_secTick_of_gated {s : State} (hgated : s.cfg.secTickGated = true) (hstopped : s.tmrRun = false) :
    s.move .secTick = s := by
  have hdisabled : ¬ s.secTickEnabled = true := by simp [State.secTickEnabled, hgated, hstopped]
  rw [State.move, if_neg hdisabled]

/-- Settles O47, move by move. -/
theorem environmentMovesOnlyItsOwn : Obligations.EnvironmentMovesOnlyItsOwn := by
  refine fun s => ⟨rfl, move_secTick_of_enabled, move_secTick_of_gated, fun v => ⟨rfl, rfl, rfl⟩,
    fun k => ⟨fun hnone => ?_, fun j hj => ?_⟩⟩
  · rw [State.move, hnone, sooner]
  · rw [State.move, hj, sooner]

/-- Settles O50: a whole operation looks at a due reset first. -/
theorem dueResetComesFirst : Obligations.DueResetComesFirst := by
  intro i s hdue
  rw [exec_eq_runOp, runOp, if_pos hdue]
  rfl

/-! ### The step and the issued words (assumption log 7) -/

theorem step_of_decoded {s : State} {q : Issue} {rest : List Issue} {i : Instr} (hissued : s.issued = q :: rest)
    (hword : decode q.word = .ok i) : step s = exec i (s.accept q rest) := by
  rw [step, hissued]
  simp only [hword]

theorem step_of_undecodable {s : State} {q : Issue} {rest : List Issue} {e : DecodeError}
    (hissued : s.issued = q :: rest) (hword : decode q.word = .error e) : step s = .refused (refusalOf e) := by
  rw [step, hissued]
  simp only [hword]

/-- Settles O5: the word decodes, or is refused by its name. -/
theorem stepRunsTheDecodedWord : Obligations.StepRunsTheDecodedWord := fun _ _ _ hissued =>
  ⟨fun _ => step_of_decoded hissued, step_of_undecodable hissued, step_of_undecodable hissued⟩

theorem decode_of_decodeTableWord {nbits w : Nat} {i : Instr} (h : decodeTableWord nbits w = some i) :
    decode (BitVec.ofNat 12 w) = .ok i := by
  rw [decodeTableWord] at h
  split at h
  · cases hd : decode (BitVec.ofNat 12 w) with
    | ok j => rw [hd] at h; cases h; rfl
    | error e => rw [hd] at h; cases h
  · cases h

/-- Settles O6: the placed word is the oldest, and taking it off the list gives the state back. -/
theorem placedWordRunsNext : Obligations.PlacedWordRunsNext := by
  intro s nbits w i h
  have hissued : (s.withFetchWord nbits w).issued = ⟨BitVec.ofNat 12 w, s.bus⟩ :: s.issued := rfl
  rw [step_of_decoded hissued (decode_of_decodeTableWord h)]
  rfl

end Sys2Proof.Proofs

namespace Sys2Proof.Proofs

open Sys2Proof Sys2Proof.Machine

/-! ### A reset some lines away (70_reset_and_hazards.md R267) -/

/-- A reset is raised and arrives after `k` further lines. -/
def withReset (k : Nat) (s : State) : State := { s with rst := some k }

/-- The reset state that ends the run of `s` after the first `k` of the events `es`. -/
def cutAfter (s : State) (es : List Event) (k : Nat) : State :=
  { s.restart with pastRuns := s.pastRuns ++ [s.trace ++ es.take k] }

/-- From `s` to `t` the events `es` are emitted, and nothing is written that a reset keeps. -/
structure Emits (s : State) (es : List Event) (t : State) : Prop where
  rst : t.rst = none
  trace : t.trace = s.trace ++ es
  pastRuns : t.pastRuns = s.pastRuns
  restart : ∀ runs, { t.restart with pastRuns := runs } = { s.restart with pastRuns := runs }

theorem Emits.refl {s : State} (hr : s.rst = none) : Emits s [] s := ⟨hr, (List.append_nil _).symm, rfl, fun _ => rfl⟩

theorem Emits.append {s t u : State} {es fs : List Event} (h : Emits s es t) (h' : Emits t fs u) :
    Emits s (es ++ fs) u :=
  ⟨h'.rst, by rw [h'.trace, h.trace, List.append_assoc], h'.pastRuns.trans h.pastRuns,
    fun runs => (h'.restart runs).trans (h.restart runs)⟩

/-- A cut in the second stretch is a cut of the whole. -/
theorem Emits.cutAfter_append {s t : State} {es : List Event} (h : Emits s es t) (fs : List Event) {k : Nat}
    (hk : es.length ≤ k) : cutAfter t fs (k - es.length) = cutAfter s (es ++ fs) k := by
  rw [cutAfter, cutAfter, h.trace, h.pastRuns, h.restart, List.take_append, List.take_of_length_le hk,
    List.append_assoc]

theorem cutAfter_append_of_lt {s : State} {es : List Event} (fs : List Event) {k : Nat} (hk : k < es.length) :
    cutAfter s (es ++ fs) k = cutAfter s es k := by
  rw [cutAfter, cutAfter, List.take_append_of_le_length hk.le]

/-- How a stretch that emits `es` from `s` to `t` ends with a reset `k` lines away. -/
def cutFlow (s : State) (es : List Event) (t : State) (k : Nat) : Flow :=
  if k < es.length then .ended (cutAfter s es k) else .ok (withReset (k - es.length) t)

/-- A stretch that has one line for each event it emits: a reset cuts it between two of them. -/
def Timed (o : Op) : Prop :=
  ∀ s t, s.rst = none → o s = .ok t → ∃ es, Emits s es t ∧ ∀ k, o (withReset k s) = cutFlow s es t k

/-- A write of registers or of the checker: no line passes, and a reset does not keep what is written. -/
structure Scratch (f : State → State) : Prop where
  withReset : ∀ s k, f (withReset k s) = withReset k (f s) := by intro s k; rfl
  rst : ∀ s, (f s).rst = s.rst := by intro s; rfl
  trace : ∀ s, (f s).trace = s.trace := by intro s; rfl
  pastRuns : ∀ s, (f s).pastRuns = s.pastRuns := by intro s; rfl
  restart : ∀ s runs, { (f s).restart with pastRuns := runs } = { s.restart with pastRuns := runs } := by
    intro s runs; rfl

namespace Timed

theorem nil : Timed (prog []) := fun s t hr h => by
  cases h
  exact ⟨[], Emits.refl hr, fun k => rfl⟩

theorem cons {o : Op} {os : List Op} (ho : Timed o) (hos : Timed (prog os)) : Timed (prog (o :: os)) := by
  intro s u hr h
  cases hflow : o s with
  | ok t =>
    rw [prog_cons, hflow, Flow.andThen_ok] at h
    obtain ⟨es, hes, hcut⟩ := ho s t hr hflow
    obtain ⟨fs, hfs, hcut'⟩ := hos t u hes.rst h
    refine ⟨es ++ fs, hes.append hfs, fun k => ?_⟩
    rw [prog_cons, hcut, cutFlow, cutFlow, List.length_append]
    by_cases hk : k < es.length
    case pos => rw [if_pos hk, if_pos (by omega), Flow.andThen_ended, cutAfter_append_of_lt fs hk]
    case neg =>
      have hle : es.length ≤ k := Nat.not_lt.mp hk
      rw [if_neg hk, Flow.andThen_ok, hcut', cutFlow, hes.cutAfter_append fs hle, Nat.sub_sub]
      by_cases hk' : k < es.length + fs.length
      · rw [if_pos hk', if_pos (by omega)]
      · rw [if_neg hk', if_neg (by omega)]
  | ended t => rw [prog_cons, hflow] at h; cases h
  | refused r => rw [prog_cons, hflow] at h; cases h

theorem update {f : State → State} (hf : Scratch f) : Timed (update f) := fun s t hr h => by
  cases h
  refine ⟨[], ⟨(hf.rst s).trans hr, by rw [hf.trace, List.append_nil], hf.pastRuns s, hf.restart s⟩, fun k => ?_⟩
  rw [update_apply, hf.withReset]
  rfl

/-- One line, one event. -/
theorem output (e : Event) {f : State → State} (hf : Scratch f) : Timed (output e f) := fun s t hr h => by
  rw [output_of_rst_none e f s hr] at h
  cases h
  refine ⟨[e], ⟨(hf.rst s).trans hr, congrArg (· ++ [e]) (hf.trace s), hf.pastRuns s, hf.restart s⟩, fun k => ?_⟩
  cases k with
  | zero =>
    have hdue : line (withReset 0 s) = .ended s.restart := line_of_rst_zero _ rfl
    rw [Machine.output, hdue, cutFlow, if_pos (by simp), cutAfter, List.take_zero, List.append_nil]
    rfl
  | succ k =>
    have hnear : line (withReset (k + 1) s) = .ok (withReset k s) := line_of_rst_succ _ k rfl
    rw [Machine.output, hnear, cutFlow, if_neg (by simp), Flow.andThen_ok, update_apply, hf.withReset]
    rfl

/-- A stretch whose form depends on something a reset on its way does not change. -/
theorem reads {α : Type} {g : State → α} {o : α → Op} (hg : ∀ s k, g (withReset k s) = g s) (ho : ∀ a, Timed (o a)) :
    Timed fun s => o (g s) s := fun s t hr h => by
  obtain ⟨es, hes, hcut⟩ := ho (g s) s t hr h
  exact ⟨es, hes, fun k => (congrArg (fun a => o a (withReset k s)) (hg s k)).trans (hcut k)⟩

/-- A stretch that never completes. -/
theorem of_never_ok {o : Op} (h : ∀ s t, o s ≠ .ok t) : Timed o := fun s t _ hok => absurd hok (h s t)

theorem either (b : Prop) [Decidable b] {o p : Op} (ho : Timed o) (hp : Timed p) : Timed (if b then o else p) := by
  split
  · exact ho
  · exact hp

theorem setClk (v : Bool) : Timed (setClk v) := output _ {}
theorem setDio (v : Bool) : Timed (setDio v) := output _ {}
theorem setBuz (v : Bool) : Timed (setBuz v) := output _ {}

theorem waitUs (n : Config → Nat) : Timed (waitUs n) :=
  reads (g := fun s => n s.cfg) (fun _ _ => rfl) fun m => output (.waitUs m) {}

theorem waitMs (n : Config → Nat) : Timed (waitMs n) :=
  reads (g := fun s => n s.cfg) (fun _ _ => rfl) fun m => output (.waitMs m) {}

theorem track (p : Prim) : Timed (track p) := fun s t hr h => by
  cases hf : trackNext s.framing p with
  | none => rw [track_of_none hf] at h; cases h
  | some f =>
    rw [track_of_some p s f hf] at h
    cases h
    refine ⟨[], ⟨hr, (List.append_nil _).symm, rfl, fun runs => ?_⟩, fun k => track_of_some p (withReset k s) f hf⟩
    simp only [State.restart, trackNext_attached hf]

theorem trackComposite : Timed trackComposite := by
  have hlets : ∀ b : Bool, Timed fun s => if b then .ok s else .refused .framing := by
    intro b
    cases b with
    | true => exact nil
    | false => exact of_never_ok fun _ _ h => (nomatch h)
  exact reads (g := fun s => compositeOk s.framing) (fun _ _ => rfl) hlets

/-! The serial engine (41_serial_engine.md) -/

theorem start : Timed start :=
  cons (track _) <| cons (setClk _) <| cons (setDio _) <| cons (waitUs _) <| cons (setDio _) nil

theorem stop : Timed stop :=
  cons (track _) <| cons (setClk _) <| cons (waitUs _) <| cons (setDio _) <| cons (waitUs _) <| cons (setClk _) <|
    cons (waitUs _) <| cons (setDio _) nil

theorem waitAck : Timed waitAck :=
  cons (track _) <| cons (setClk _) <| cons (waitUs _) <| cons (setClk _) <| cons (waitUs _) <| cons (setClk _) nil

theorem bitCell : Timed bitCell :=
  cons (setClk _) <| cons (reads (g := fun s => s.shr.getLsbD 0) (fun _ _ => rfl) setDio) <| cons (waitUs _) <|
    cons (update {}) <| cons (setClk _) <| cons (waitUs _) <| cons (update {}) nil

theorem bitCells (n : Nat) : Timed (bitCells n) := by
  induction n with
  | zero => exact nil
  | succ n ih => exact cons bitCell (cons ih nil)

theorem wrByte (b : Byte) : Timed (wrByte b) := cons (track _) <| cons (update {}) <| cons (bitCells 8) nil

theorem sendCommand (b : Byte) : Timed (sendCommand b) :=
  cons trackComposite <| cons start <| cons (wrByte b) <| cons waitAck <| cons stop nil

theorem sendDigits (k : Bool) (ds : List Digit) : Timed (sendDigits k ds) := by
  induction ds with
  | nil => exact nil
  | cons d ds ih =>
    have hbyte : Timed fun s => Machine.wrByte (wireGlyph s.cfg k d) s :=
      reads (g := fun s => wireGlyph s.cfg k d) (fun _ _ => rfl) wrByte
    exact cons hbyte <| cons waitAck <| cons (update {}) <| cons ih nil

theorem sendFrame (k : Bool) (dcmd addr : Byte) (ds : List Digit) (disp : Byte) :
    Timed (sendFrame k dcmd addr ds disp) :=
  cons (sendCommand dcmd) <| cons start <| cons (wrByte addr) <| cons waitAck <| cons (update {}) <|
    cons (sendDigits k ds) <| cons stop <| cons (sendCommand disp) nil

theorem wrFrame (n : Nat) (k : Bool) (dcmd addr : Byte) (ls : Vector Digit 6) (disp : Byte) :
    Timed (wrFrame n k dcmd addr ls disp) := by
  have hhalt : Timed (raiseHalt .glyphRange) := of_never_ok fun _ _ h => (nomatch h)
  have hframe := either (glyphRangeOk (firstDigits n ls)) (sendFrame k dcmd addr (firstDigits n ls) disp) hhalt
  have hlength : ∀ b : Bool, Timed fun s => if b then
      prog [Machine.trackComposite, if glyphRangeOk (firstDigits n ls) then
        Machine.sendFrame k dcmd addr (firstDigits n ls) disp else raiseHalt .glyphRange] s
      else .refused .frameLength := by
    intro b
    cases b with
    | true => exact cons trackComposite (cons hframe nil)
    | false => exact of_never_ok fun _ _ h => (nomatch h)
  exact reads (g := fun s => frameLengthOk s.cfg n) (fun _ _ => rfl) hlength

/-! The cue (43_session.md R194) -/

theorem pulse (p : Nat) : Timed (pulse p) :=
  cons (setBuz _) <| cons (waitMs _) <| cons (setBuz _) <| cons (either (2 ≤ p) (waitMs _) nil) nil

theorem pulses (p n : Nat) : Timed (pulses p n) := by
  induction n with
  | zero => exact nil
  | succ n ih => exact cons (pulse p) (cons ih nil)

theorem cue (p : Nat) : Timed (cue p) := either (p = 0) (of_never_ok fun _ _ h => (nomatch h)) (pulses p p)

end Timed

/-! ### Whole operations cut by a reset -/

/-- The operations whose every line is an output or a register write. -/
def isWireOrCue : Instr → Prop
  | .start | .stop | .wrbyte _ | .waitack | .wrdatacmd _ | .wrdispcmd _ | .wrframe _ _ | .cue _ => True
  | _ => False

theorem timed_opLines {i : Instr} (hi : isWireOrCue i) (b : OperandBus) : Timed (opLines b i) := by
  cases i
  case start => exact Timed.start
  case stop => exact Timed.stop
  case wrbyte x => exact Timed.wrByte x
  case waitack => exact Timed.waitAck
  case wrdatacmd x => exact Timed.sendCommand x
  case wrdispcmd x => exact Timed.sendCommand x
  case wrframe k n => exact Timed.wrFrame _ _ _ _ _ _
  case cue p => exact Timed.cue _
  all_goals exact hi.elim

/-- Without a reset the lines of the serial engine end early only by the halt of `WRFRAME`. -/
theorem wireKept_rst_none : WireKept (fun s => s.rst = none) fun s => s.halt = true where
  line s hs := by rw [line_of_rst_none s hs]; exact hs
  log _ _ hs := hs
  clk _ _ hs := hs
  dio _ _ hs := hs
  idx _ _ hs := hs
  shr _ _ hs := hs
  bitc _ _ hs := hs
  framing _ _ hs := hs

theorem opLines_ends_halted {i : Instr} (hi : isWireOrCue i) (b : OperandBus) {s : State} (hr : s.rst = none) :
    (opLines b i s).Sat (fun t => t.rst = none) fun t => t.halt = true := by
  cases i
  case start => exact wireKept_rst_none.start s hr
  case stop => exact wireKept_rst_none.stop s hr
  case wrbyte x => exact wireKept_rst_none.wrByte x s hr
  case waitack => exact wireKept_rst_none.waitAck s hr
  case wrdatacmd x => exact wireKept_rst_none.sendCommand x s hr
  case wrdispcmd x => exact wireKept_rst_none.sendCommand x s hr
  case wrframe k n => exact wireKept_rst_none.wrFrame _ _ _ _ _ _ s hr fun _ => rfl
  case cue p =>
    by_cases hp : p.toNat = 0
    · rw [opLines, cue, if_pos hp]; trivial
    · rw [opLines, cue_of_rst_none _ hp s hr]; exact hr
  all_goals exact hi.elim

/-- A whole operation that emits `es`, with a reset `k` lines away. -/
theorem runOp_cut {o : Op} {s t : State} {es : List Event} (hh : s.halt = false) (k : Nat)
    (hcut : o (withReset k s) = cutFlow s es t k) :
    runOp o (withReset k s) =
      if k < es.length then .next (cutAfter s es k)
      else if k = 0 then .next s.restart
      else .next (withReset (k - es.length) t) := by
  by_cases hk : k = 0
  case pos =>
    subst hk
    have hdue : runOp o (withReset 0 s) = .next s.restart := if_pos rfl
    have hnothing : cutAfter s es 0 = s.restart := by
      rw [cutAfter, List.take_zero, List.append_nil]
      rfl
    rw [hdue, hnothing, if_pos rfl, ite_self]
  case neg =>
    have hready : (withReset k s).rst ≠ some 0 := fun h => hk (Option.some.inj h)
    rw [runOp_of_ready o (withReset k s) hh hready, hcut, cutFlow, if_neg hk]
    split <;> rfl

/-- Settles O51: every line of these operations that a reset can meet emits one event. -/
theorem resetCutsAnOperationShort : Obligations.ResetCutsAnOperationShort := by
  intro i s t hr hh hexec hrunning hi
  have hwire : isWireOrCue i := by cases i <;> exact hi
  rw [exec_eq_runOp] at hexec
  obtain ⟨hok, -⟩ | ⟨-, hhalted⟩ := runOp_answer hh (rst_not_due_of_none hr) (opLines_ends_halted hwire s.bus hr) hexec
  case inr => simp [hhalted] at hrunning
  obtain ⟨es, hes, hcut⟩ := timed_opLines hwire s.bus s t hr hok
  refine ⟨es, hes.trace, fun k => ?_⟩
  have hrun := runOp_cut hh k (hcut k)
  rw [exec_eq_runOp]
  exact hrun

end Sys2Proof.Proofs
